-- ==== Sys2Proof/Word.lean ====
section
/-!
DEFINITION. The word types of the CORE (spec/10_state.md, spec/30_encoding.md) and nothing else: widths, as the spec gives them.
-/
namespace Sys2Proof

/-- An 8-bit value: a general register, a timer, a memory byte, the immediate `NN` (R101, R125, R200, R304). -/
abbrev Byte := BitVec 8

/-- A 16-bit value: `pc`, `I`, a stack entry, an instruction word (R110, R120, R130, R300). -/
abbrev Word := BitVec 16

/-- The 12-bit address field `NNN` of an instruction (R302, R304). -/
abbrev Addr12 := BitVec 12

/-- The number of one of the 16 general registers `V0` to `VF` (R101). -/
abbrev RegIdx := Fin 16

/-- The number of one of the 16 keys, "a fixed logical key identifier 0x0–0xF" (R150). -/
abbrev KeyIdx := Fin 16

/-- `VF`, the 16th register, which some instructions also write a flag to (R102). -/
abbrev VF : RegIdx := 15

end Sys2Proof
end

