-- ==== Sys2Proof/Syntax.lean ====
section
/-!
DEFINITION. The instruction set as syntax: one constructor for each of the 34 rows of spec/30_encoding.md R309 and of
spec/opcode_table.json, in the table's order.
-/
namespace Sys2Proof

/-- One instruction (R309). `x`, `y` are register numbers, `nn` the byte immediate, `nnn` the 12-bit address, `n` the row count
of a sprite, which `Instr.wellFormed` bounds. Every field an encoding carries is kept, so also the `y` that `SHR` and `SHL`
encode and do not read (R311, R616, R618). -/
inductive Instr where
  /-- `00E0` `CLS` (R401) -/
  | cls
  /-- `00EE` `RET` (R501) -/
  | ret
  /-- `1NNN` `JP NNN` (R502) -/
  | jp (nnn : Addr12)
  /-- `2NNN` `CALL NNN` (R503) -/
  | call (nnn : Addr12)
  /-- `3XNN` `SE VX, NN` (R504) -/
  | seImm (x : RegIdx) (nn : Byte)
  /-- `4XNN` `SNE VX, NN` (R505) -/
  | sneImm (x : RegIdx) (nn : Byte)
  /-- `5XY0` `SE VX, VY` (R506) -/
  | seReg (x y : RegIdx)
  /-- `6XNN` `LD VX, NN` (R601) -/
  | ldImm (x : RegIdx) (nn : Byte)
  /-- `7XNN` `ADD VX, NN` (R602) -/
  | addImm (x : RegIdx) (nn : Byte)
  /-- `8XY0` `LD VX, VY` (R610) -/
  | ldReg (x y : RegIdx)
  /-- `8XY1` `OR VX, VY` (R611) -/
  | orReg (x y : RegIdx)
  /-- `8XY2` `AND VX, VY` (R612) -/
  | andReg (x y : RegIdx)
  /-- `8XY3` `XOR VX, VY` (R613) -/
  | xorReg (x y : RegIdx)
  /-- `8XY4` `ADD VX, VY` (R614) -/
  | addReg (x y : RegIdx)
  /-- `8XY5` `SUB VX, VY` (R615) -/
  | subReg (x y : RegIdx)
  /-- `8XY6` `SHR VX, VY` (R616) -/
  | shr (x y : RegIdx)
  /-- `8XY7` `SUBN VX, VY` (R617) -/
  | subn (x y : RegIdx)
  /-- `8XYE` `SHL VX, VY` (R618) -/
  | shl (x y : RegIdx)
  /-- `9XY0` `SNE VX, VY` (R507) -/
  | sneReg (x y : RegIdx)
  /-- `ANNN` `LD I, NNN` (R700) -/
  | ldI (nnn : Addr12)
  /-- `BNNN` `JP V0, NNN` (R508) -/
  | jpV0 (nnn : Addr12)
  /-- `CXNN` `RND VX, NN` (R640) -/
  | rnd (x : RegIdx) (nn : Byte)
  /-- `DXYN` `DRW VX, VY, N` (R402) -/
  | drw (x y : RegIdx) (n : Nat)
  /-- `EX9E` `SKP VX` (R800) -/
  | skp (x : RegIdx)
  /-- `EXA1` `SKNP VX` (R801) -/
  | sknp (x : RegIdx)
  /-- `FX07` `LD VX, DT` (R802) -/
  | ldFromDT (x : RegIdx)
  /-- `FX0A` `LD VX, K` (R803) -/
  | ldKey (x : RegIdx)
  /-- `FX15` `LD DT, VX` (R805) -/
  | ldToDT (x : RegIdx)
  /-- `FX18` `LD ST, VX` (R806) -/
  | ldToST (x : RegIdx)
  /-- `FX1E` `ADD I, VX` (R701) -/
  | addI (x : RegIdx)
  /-- `FX29` `LD F, VX` (R702) -/
  | ldFont (x : RegIdx)
  /-- `FX33` `LD B, VX` (R703) -/
  | ldBcd (x : RegIdx)
  /-- `FX55` `LD [I], VX` (R704) -/
  | storeRegs (x : RegIdx)
  /-- `FX65` `LD VX, [I]` (R705) -/
  | loadRegs (x : RegIdx)
deriving DecidableEq, Repr

end Sys2Proof
end

