-- ==== Sys2Proof/Decode.lean ====
section
/-!
DEFINITION. The decoder of spec/30_encoding.md, total on any bytes and rejecting by name, and the encoder, both written from
the fields of R302 and the opcode map of R309.
-/
namespace Sys2Proof

/-! ## Fields (R302, R303) -/

/-- `T = opcode[15:12]`, the family. -/
def fieldT (w : Word) : BitVec 4 := w.extractLsb' 12 4

/-- `X = opcode[11:8]`. -/
def fieldX (w : Word) : BitVec 4 := w.extractLsb' 8 4

/-- `Y = opcode[7:4]`. -/
def fieldY (w : Word) : BitVec 4 := w.extractLsb' 4 4

/-- `N = opcode[3:0]`. -/
def fieldN (w : Word) : BitVec 4 := w.extractLsb' 0 4

/-- `NN = opcode[7:0]`. -/
def fieldNN (w : Word) : Byte := w.extractLsb' 0 8

/-- `NNN = opcode[11:0]`. -/
def fieldNNN (w : Word) : Addr12 := w.extractLsb' 0 12

/-- The register a 4-bit field names. -/
def regOfNibble (b : BitVec 4) : RegIdx := ⟨b.toNat, b.isLt⟩

/-- The 4-bit field that names a register. -/
def nibbleOfReg (x : RegIdx) : BitVec 4 := BitVec.ofNat 4 x.val

/-- `opcode = memory[pc] << 8 | memory[pc+1]`: the byte at the lower address is the high byte (R230, R301). -/
def composeWord (hi lo : Byte) : Word := hi ++ lo

/-- The byte of a word that lies at the lower address (R230). -/
def highByte (w : Word) : Byte := w.extractLsb' 8 8

/-- The byte of a word that lies at the higher address (R230). -/
def lowByte (w : Word) : Byte := w.extractLsb' 0 8

/-! ## Decoder (R306 to R312) -/

/-- Why no instruction is read from some bytes. -/
inductive Reject where
  /-- The word matches no row of the opcode map (R310); the machine then raises `UnknownOpcode` (R903). -/
  | unknownOpcode (w : Word)
  /-- Fewer than the two bytes of an instruction (R300). The machine always fetches two, so only a caller outside it sees this. -/
  | fewerThanTwoBytes
deriving DecidableEq, Repr

/-- Family 0x0: "the whole opcode must be `0x00E0` or `0x00EE`" (R307). -/
def decodeFamily0 (w : Word) : Except Reject Instr :=
  if w = 0x00E0#16 then .ok .cls
  else if w = 0x00EE#16 then .ok .ret
  else .error (.unknownOpcode w)

/-- Family 0x8: the low nibble selects the operation (R307, R309 rows 10 to 18). -/
def decodeFamily8 (w : Word) : Except Reject Instr :=
  let x := regOfNibble (fieldX w)
  let y := regOfNibble (fieldY w)
  match (fieldN w).toNat with
  | 0x0 => .ok (.ldReg x y)
  | 0x1 => .ok (.orReg x y)
  | 0x2 => .ok (.andReg x y)
  | 0x3 => .ok (.xorReg x y)
  | 0x4 => .ok (.addReg x y)
  | 0x5 => .ok (.subReg x y)
  | 0x6 => .ok (.shr x y)
  | 0x7 => .ok (.subn x y)
  | 0xE => .ok (.shl x y)
  | _ => .error (.unknownOpcode w)

/-- Family 0xE: the low byte selects the operation (R307, R309 rows 24 and 25). -/
def decodeFamilyE (w : Word) : Except Reject Instr :=
  let x := regOfNibble (fieldX w)
  if fieldNN w = 0x9E#8 then .ok (.skp x)
  else if fieldNN w = 0xA1#8 then .ok (.sknp x)
  else .error (.unknownOpcode w)

/-- Family 0xF: the low byte selects the operation (R307, R309 rows 26 to 34). -/
def decodeFamilyF (w : Word) : Except Reject Instr :=
  let x := regOfNibble (fieldX w)
  if fieldNN w = 0x07#8 then .ok (.ldFromDT x)
  else if fieldNN w = 0x0A#8 then .ok (.ldKey x)
  else if fieldNN w = 0x15#8 then .ok (.ldToDT x)
  else if fieldNN w = 0x18#8 then .ok (.ldToST x)
  else if fieldNN w = 0x1E#8 then .ok (.addI x)
  else if fieldNN w = 0x29#8 then .ok (.ldFont x)
  else if fieldNN w = 0x33#8 then .ok (.ldBcd x)
  else if fieldNN w = 0x55#8 then .ok (.storeRegs x)
  else if fieldNN w = 0x65#8 then .ok (.loadRegs x)
  else .error (.unknownOpcode w)

/-- Families 0x5 and 0x9 require `N = 0` (R308; spec/90_conflicts.md C3). -/
def decodeIfN0 (w : Word) (i : Instr) : Except Reject Instr :=
  if fieldN w = 0x0#4 then .ok i else .error (.unknownOpcode w)

/-- Decode one instruction word: the top nibble selects the family (R306), "each family switch is self-contained" (R307).
Total: every word gives exactly one instruction or `unknownOpcode` (R312). The last arm is family 0xF, the one value of the
4-bit field that is left. -/
def decodeWord (w : Word) : Except Reject Instr :=
  let x := regOfNibble (fieldX w)
  let y := regOfNibble (fieldY w)
  match (fieldT w).toNat with
  | 0x0 => decodeFamily0 w
  | 0x1 => .ok (.jp (fieldNNN w))
  | 0x2 => .ok (.call (fieldNNN w))
  | 0x3 => .ok (.seImm x (fieldNN w))
  | 0x4 => .ok (.sneImm x (fieldNN w))
  | 0x5 => decodeIfN0 w (.seReg x y)
  | 0x6 => .ok (.ldImm x (fieldNN w))
  | 0x7 => .ok (.addImm x (fieldNN w))
  | 0x8 => decodeFamily8 w
  | 0x9 => decodeIfN0 w (.sneReg x y)
  | 0xA => .ok (.ldI (fieldNNN w))
  | 0xB => .ok (.jpV0 (fieldNNN w))
  | 0xC => .ok (.rnd x (fieldNN w))
  | 0xD => .ok (.drw x y (fieldN w).toNat)
  | 0xE => decodeFamilyE w
  | _ => decodeFamilyF w

/-- Read one instruction from the front of any bytes, with the bytes after it. -/
def decode : List Byte → Except Reject (Instr × List Byte)
  | hi :: lo :: rest =>
    match decodeWord (composeWord hi lo) with
    | .ok i => .ok (i, rest)
    | .error r => .error r
  | [_] => .error .fewerThanTwoBytes
  | [] => .error .fewerThanTwoBytes

/-! ## Encoder (R302, R309) -/

/-- Format `FXB`: `T`, `X`, `NN`. -/
def formXNN (t : BitVec 4) (x : RegIdx) (nn : Byte) : Word := t ++ nibbleOfReg x ++ nn

/-- Formats `FXY` and `FXYN`: `T`, `X`, `Y`, `N`. -/
def formXYN (t : BitVec 4) (x y : RegIdx) (n : BitVec 4) : Word := t ++ nibbleOfReg x ++ nibbleOfReg y ++ n

/-- Format `FA`: `T`, `NNN`. -/
def formNNN (t : BitVec 4) (nnn : Addr12) : Word := t ++ nnn

/-- The word of a well-formed instruction (R309). Of an ill-formed `drw` it keeps the low four bits of the row count. -/
def encode : Instr → Word
  | .cls => 0x00E0#16
  | .ret => 0x00EE#16
  | .jp nnn => formNNN 0x1#4 nnn
  | .call nnn => formNNN 0x2#4 nnn
  | .seImm x nn => formXNN 0x3#4 x nn
  | .sneImm x nn => formXNN 0x4#4 x nn
  | .seReg x y => formXYN 0x5#4 x y 0x0#4
  | .ldImm x nn => formXNN 0x6#4 x nn
  | .addImm x nn => formXNN 0x7#4 x nn
  | .ldReg x y => formXYN 0x8#4 x y 0x0#4
  | .orReg x y => formXYN 0x8#4 x y 0x1#4
  | .andReg x y => formXYN 0x8#4 x y 0x2#4
  | .xorReg x y => formXYN 0x8#4 x y 0x3#4
  | .addReg x y => formXYN 0x8#4 x y 0x4#4
  | .subReg x y => formXYN 0x8#4 x y 0x5#4
  | .shr x y => formXYN 0x8#4 x y 0x6#4
  | .subn x y => formXYN 0x8#4 x y 0x7#4
  | .shl x y => formXYN 0x8#4 x y 0xE#4
  | .sneReg x y => formXYN 0x9#4 x y 0x0#4
  | .ldI nnn => formNNN 0xA#4 nnn
  | .jpV0 nnn => formNNN 0xB#4 nnn
  | .rnd x nn => formXNN 0xC#4 x nn
  | .drw x y n => formXYN 0xD#4 x y (BitVec.ofNat 4 n)
  | .skp x => formXNN 0xE#4 x 0x9E#8
  | .sknp x => formXNN 0xE#4 x 0xA1#8
  | .ldFromDT x => formXNN 0xF#4 x 0x07#8
  | .ldKey x => formXNN 0xF#4 x 0x0A#8
  | .ldToDT x => formXNN 0xF#4 x 0x15#8
  | .ldToST x => formXNN 0xF#4 x 0x18#8
  | .addI x => formXNN 0xF#4 x 0x1E#8
  | .ldFont x => formXNN 0xF#4 x 0x29#8
  | .ldBcd x => formXNN 0xF#4 x 0x33#8
  | .storeRegs x => formXNN 0xF#4 x 0x55#8
  | .loadRegs x => formXNN 0xF#4 x 0x65#8

/-! ## The opcode map as data (R309) -/

/-- One row of the opcode map: "the opcode selects the row iff `opcode & mask == match`" (R309). -/
structure OpcodeRow where
  mnemonic : String
  mask : Word
  pattern : Word
deriving DecidableEq, Repr

/-- `w` selects the row. -/
def OpcodeRow.selects (r : OpcodeRow) (w : Word) : Bool := w &&& r.mask == r.pattern

/-- The row of the opcode map that an instruction stands for, mask and match as R309 prints them. -/
def Instr.row : Instr → OpcodeRow
  | .cls => ⟨"CLS", 0xFFFF, 0x00E0⟩
  | .ret => ⟨"RET", 0xFFFF, 0x00EE⟩
  | .jp _ => ⟨"JP_NNN", 0xF000, 0x1000⟩
  | .call _ => ⟨"CALL_NNN", 0xF000, 0x2000⟩
  | .seImm _ _ => ⟨"SE_VX__NN", 0xF000, 0x3000⟩
  | .sneImm _ _ => ⟨"SNE_VX__NN", 0xF000, 0x4000⟩
  | .seReg _ _ => ⟨"SE_VX__VY", 0xF00F, 0x5000⟩
  | .ldImm _ _ => ⟨"LD_VX__NN", 0xF000, 0x6000⟩
  | .addImm _ _ => ⟨"ADD_VX__NN", 0xF000, 0x7000⟩
  | .ldReg _ _ => ⟨"LD_VX__VY", 0xF00F, 0x8000⟩
  | .orReg _ _ => ⟨"OR_VX__VY", 0xF00F, 0x8001⟩
  | .andReg _ _ => ⟨"AND_VX__VY", 0xF00F, 0x8002⟩
  | .xorReg _ _ => ⟨"XOR_VX__VY", 0xF00F, 0x8003⟩
  | .addReg _ _ => ⟨"ADD_VX__VY", 0xF00F, 0x8004⟩
  | .subReg _ _ => ⟨"SUB_VX__VY", 0xF00F, 0x8005⟩
  | .shr _ _ => ⟨"SHR_VX__VY", 0xF00F, 0x8006⟩
  | .subn _ _ => ⟨"SUBN_VX__VY", 0xF00F, 0x8007⟩
  | .shl _ _ => ⟨"SHL_VX__VY", 0xF00F, 0x800E⟩
  | .sneReg _ _ => ⟨"SNE_VX__VY", 0xF00F, 0x9000⟩
  | .ldI _ => ⟨"LD_I__NNN", 0xF000, 0xA000⟩
  | .jpV0 _ => ⟨"JP_V0__NNN", 0xF000, 0xB000⟩
  | .rnd _ _ => ⟨"RND_VX__NN", 0xF000, 0xC000⟩
  | .drw _ _ _ => ⟨"DRW_VX__VY__N", 0xF000, 0xD000⟩
  | .skp _ => ⟨"SKP_VX", 0xF0FF, 0xE09E⟩
  | .sknp _ => ⟨"SKNP_VX", 0xF0FF, 0xE0A1⟩
  | .ldFromDT _ => ⟨"LD_VX__DT", 0xF0FF, 0xF007⟩
  | .ldKey _ => ⟨"LD_VX__K", 0xF0FF, 0xF00A⟩
  | .ldToDT _ => ⟨"LD_DT__VX", 0xF0FF, 0xF015⟩
  | .ldToST _ => ⟨"LD_ST__VX", 0xF0FF, 0xF018⟩
  | .addI _ => ⟨"ADD_I__VX", 0xF0FF, 0xF01E⟩
  | .ldFont _ => ⟨"LD_F__VX", 0xF0FF, 0xF029⟩
  | .ldBcd _ => ⟨"LD_B__VX", 0xF0FF, 0xF033⟩
  | .storeRegs _ => ⟨"LD__I___VX", 0xF0FF, 0xF055⟩
  | .loadRegs _ => ⟨"LD_VX___I", 0xF0FF, 0xF065⟩

/-- Every row of the opcode map, in its order: one instruction of each form. -/
def opcodeMap : List OpcodeRow :=
  [Instr.cls, .ret, .jp 0, .call 0, .seImm 0 0, .sneImm 0 0, .seReg 0 0, .ldImm 0 0, .addImm 0 0, .ldReg 0 0, .orReg 0 0,
    .andReg 0 0, .xorReg 0 0, .addReg 0 0, .subReg 0 0, .shr 0 0, .subn 0 0, .shl 0 0, .sneReg 0 0, .ldI 0, .jpV0 0,
    .rnd 0 0, .drw 0 0 0, .skp 0, .sknp 0, .ldFromDT 0, .ldKey 0, .ldToDT 0, .ldToST 0, .addI 0, .ldFont 0, .ldBcd 0,
    .storeRegs 0, .loadRegs 0].map Instr.row

/-! ## The host's entry -/

/-- The instruction the decoder reads from an instruction whose bits are `w`, numbered as spec/opcode_table.json numbers them
(bit 0 the least significant bit of the word): the word is laid out big-endian, as the hardware stores it, and decoded. An
instruction is one 16-bit word (R300), so bits above it do not exist. -/
def decodeTableWord (nbits w : Nat) : Option Instr :=
  let word : Word := BitVec.ofNat 16 (w % 2 ^ nbits)
  match decode [highByte word, lowByte word] with
  | .ok (i, _) => some i
  | .error _ => none

end Sys2Proof
end

