-- ==== Sys2Proof/Config.lean ====
section
/-!
DEFINITION. What the spec leaves to an implementation or to the outside: the type of the sprite edge policy, and the free
value of `CXNN`. The values this hardware gives the four parameters of R12 stand in Machine/Parameters.lean.
-/
namespace Sys2Proof

/-- The two values of the parameter `SPRITE_EDGE_POLICY` (R11, R403, R404). -/
inductive EdgePolicy where
  | wrap
  | clip
deriving DecidableEq, Repr

/-- The random byte that the `n`-th executed `CXNN` draws (R17, R640: "a free input, any of the 256 values, chosen
independently at each such step"). It has no body: no proof can see a value of it, so a statement about `CXNN` holds for every
source of random bytes. DESIGN CHOICE, notes/assumptions/1.md. -/
opaque Config.randomByte : Nat → Byte

end Sys2Proof
end

