-- ==== Sys2Proof/Machine/Parameters.lean ====
section
/-!
DEFINITION. The parameters of spec/00_scope.md R11 with the values this hardware gives them, and the region bounds of
spec/20_memory.md R201. Every other definition reads them from here.
-/
namespace Sys2Proof.Machine

/-- `MEM_SIZE` − 1: the last address of memory, 0xFFF (R11, R200). -/
def Params.memLast : Nat := 0xFFF

/-- `INTERP_HI`: the last address of the interpreter region 0x000..0x1FF (R11, R201). -/
def Params.interpHi : Nat := 0x1FF

/-- `PROG_LO`: the first address of the program region (R11, R201), where the ROM is loaded (R1010). -/
def Params.progLo : Nat := 0x200

/-- `PROG_HI`: the last address of the program region (R11, R201). -/
def Params.progHi : Nat := 0xE9F

/-- `ROM_CAPACITY = 0xE9F − 0x200 + 1 = 3232` (R11, R1010; spec/90_conflicts.md C1). -/
def Params.romCapacity : Nat := Params.progHi - Params.progLo + 1

/-- `FONT_BASE` (R11, R203). UNVERIFIED: the spec's decision D10; notes/assumptions/3.md. -/
def Params.fontBase : Nat := 0x000

/-- `FONT_DATA`: 16 glyphs of 5 bytes, in the order of the digits (R203). PRESUMED: the spec takes the bytes from general
knowledge (its G1); notes/assumptions/4.md. -/
def Params.fontData : List Byte :=
  [0xF0, 0x90, 0x90, 0x90, 0xF0] ++ [0x20, 0x60, 0x20, 0x20, 0x70] ++
  [0xF0, 0x10, 0xF0, 0x80, 0xF0] ++ [0xF0, 0x10, 0xF0, 0x10, 0xF0] ++
  [0x90, 0x90, 0xF0, 0x10, 0x10] ++ [0xF0, 0x80, 0xF0, 0x10, 0xF0] ++
  [0xF0, 0x80, 0xF0, 0x90, 0xF0] ++ [0xF0, 0x10, 0x20, 0x40, 0x40] ++
  [0xF0, 0x90, 0xF0, 0x90, 0xF0] ++ [0xF0, 0x90, 0xF0, 0x10, 0xF0] ++
  [0xF0, 0x90, 0xF0, 0x90, 0x90] ++ [0xE0, 0x90, 0xE0, 0x90, 0xE0] ++
  [0xF0, 0x80, 0x80, 0x80, 0xF0] ++ [0xE0, 0x90, 0x90, 0x90, 0xE0] ++
  [0xF0, 0x80, 0xF0, 0x80, 0xF0] ++ [0xF0, 0x80, 0xF0, 0x80, 0x80]

/-- `SPRITE_EDGE_POLICY`: `wrap`, "this hardware's default, normative" (R11, R403). -/
def Params.spriteEdgePolicy : EdgePolicy := .wrap

/-- `PROTECT_INTERP_REGION = true` (R11, R222). UNVERIFIED: the spec's decision D8; notes/assumptions/5.md. -/
def Params.protectInterpRegion : Bool := true

end Sys2Proof.Machine
end

