-- ==== Sys2Proof/Machine/State.lean ====
section
/-!
DEFINITION. The state of the CORE as spec/10_state.md R100 lists it, the reasons a step can stop, and the state after reset
(R170, R1000).
-/
namespace Sys2Proof.Machine

/-- The sub-kind of a `StackFault` (R154, R900). -/
inductive StackFaultKind where
  | overflow
  | underflow
deriving DecidableEq, Repr

/-- The sub-kind of a `BoundsFault` with the offending range or value (R154, R900, R905). -/
inductive BoundsFaultKind where
  /-- a read range passes 0xFFF: `DXYN`, `FX65` -/
  | readOutOfRange (addr : Word) (len : Nat)
  /-- a write range passes 0xFFF: `FX33`, `FX55` -/
  | writeOutOfRange (addr : Word) (len : Nat)
  /-- a write range touches 0x000..0x1FF: `FX33`, `FX55` -/
  | writeProtected (addr : Word) (len : Nat)
  /-- `V[X] > 0xF` in `FX29` -/
  | fontDigit (value : Byte)
  /-- `V[X] > 0xF` in `EX9E`, `EXA1` -/
  | keyIndex (value : Byte)
deriving DecidableEq, Repr

/-- The fields `kind` and `detail` of a fault record as one value, so that no kind stands beside a detail of another
(R154, R900). -/
inductive FaultCause where
  | programCounterOutOfRange
  | unknownOpcode
  | stackFault (detail : StackFaultKind)
  | boundsFault (detail : BoundsFaultKind)
deriving DecidableEq, Repr

/-- The fault record `{kind, pc, opcode, detail}` (R154). `opcode` is `none` where nothing was fetched. -/
structure FaultRecord where
  cause : FaultCause
  pc : Word
  opcode : Option Word
deriving DecidableEq, Repr

/-- The machine status (R153). -/
inductive Status where
  /-- the next `step` fetches and executes an instruction -/
  | running
  /-- `FX0A` waits for a key-press edge, to be stored in `V[x]`; the next `step` polls -/
  | awaitingKey (x : RegIdx)
  /-- the engine has halted on a fatal fault -/
  | faulted (record : FaultRecord)
deriving DecidableEq, Repr

/-- Memory as address and byte pairs, addresses rising, listing only the bytes that differ from their reset value
(`Memory.wf`, Machine/Ops.lean; R200). -/
abbrev Memory := List Host.Cell

/-- "64×32 grid of 1-bit pixels, row-major": 32 rows of 64 pixels (R140). -/
abbrev Framebuffer := Vector (Vector Bool 64) 32

/-- Every pixel 0 (R142, R401). -/
def Framebuffer.clear : Framebuffer := Vector.replicate 32 (Vector.replicate 64 false)

/-- The architectural state of the CORE, "exactly" the pieces R100 lists, and after them `rndDraws`, which is the model's own. -/
structure State where
  /-- `V[0..15]`, the general registers (R101) -/
  v : Vector Byte 16
  /-- `I`, the address register (R120) -/
  i : Word
  /-- `pc`, the program counter (R110) -/
  pc : Word
  /-- `S[0..15]`, the call stack's entries, stale ones kept (R130, R132) -/
  stack : Vector Word 16
  /-- `sp ∈ [0, 16]`, how many entries are in use (R130) -/
  sp : Fin 17
  /-- `DT`, the delay timer (R125) -/
  dt : Byte
  /-- `ST`, the sound timer (R125) -/
  st : Byte
  /-- `M[0x000..0xFFF]` (R200) -/
  mem : Memory
  /-- `FB[0..31][0..63]` (R140) -/
  fb : Framebuffer
  /-- `dirty` (R141) -/
  dirty : Bool
  /-- `K[0..15]`, which keys are pressed (R150) -/
  keys : Vector Bool 16
  /-- `Kprev[0..15]`, the key-edge snapshot (R152) -/
  kprev : Vector Bool 16
  /-- `status` with its fault record (R153, R154) -/
  status : Status
  /-- The model's own, not the spec's: how many `CXNN` have drawn their random byte, so that each draws a fresh free value
  `Config.randomByte rndDraws` (R17, R640). DESIGN CHOICE, notes/assumptions/1.md. -/
  rndDraws : Nat
deriving DecidableEq, Repr

/-- A reason for the MODEL to stop. There is none. A fatal fault of the CORE is no stop of the model: R901 gives its whole
effect, `status <- Faulted(rec)`, so it is a next state, and R908 gives every later step. Nothing raises this; safe. -/
inductive Fault where
deriving DecidableEq, Repr

/-- An instruction without a meaning. -/
inductive Refusal where
  /-- The arm of an instruction that has no meaning yet; safe. No arm of `exec` answers it. -/
  | notModelled (mnemonic : String)
deriving DecidableEq, Repr

/-- What a meaning and a step answer. -/
abbrev Result := Host.Outcome State Fault Refusal

/-- The construction state (R170, R1000): everything 0 but `pc = 0x200` (R116, R1001) and the font table, which
`Memory.resetByte` gives to addresses that `mem` does not list (R203). `rndDraws` starts at 0: DESIGN CHOICE,
notes/assumptions/1.md. -/
def State.reset : State where
  v := Vector.replicate 16 0
  i := 0
  pc := 0x200
  stack := Vector.replicate 16 0
  sp := 0
  dt := 0
  st := 0
  mem := []
  fb := Framebuffer.clear
  dirty := false
  keys := Vector.replicate 16 false
  kprev := Vector.replicate 16 false
  status := .running
  rndDraws := 0

end Sys2Proof.Machine
end

