-- ==== Sys2Proof/Machine/Ops.lean ====
section
/-!
DEFINITION. The named operations every meaning is written with: memory and its checks, the registers, the call stack, the
framebuffer, the fetch, and the taking of a fault (spec/20_memory.md, spec/10_state.md, spec/60_exceptions.md R901).
-/
namespace Sys2Proof.Machine

/-! ## Memory (R200 to R203) -/

/-- What an address that memory does not list holds: the reset contents, which are the font table at `FONT_BASE` and 0
everywhere else (R200, R203). -/
def Memory.resetByte (a : Nat) : Byte :=
  if Params.fontBase ≤ a then Params.fontData.getD (a - Params.fontBase) 0 else 0

/-- `M[a]`. The checks of R211 and R220 precede every read, so `a` is at most 0xFFF wherever a meaning reads
(notes/assumptions/2.md). -/
def Memory.read : Memory → Nat → Byte
  | [], a => Memory.resetByte a
  | (k, c) :: m, a => if a = k then c else Memory.read m a

/-- Put a byte in front of the cells that lie above it, unless it is what an unlisted address holds. -/
def Memory.cons (a : Nat) (b : Byte) (m : Memory) : Memory :=
  if b = Memory.resetByte a then m else (a, b) :: m

/-- `M[a] <- b`, in canonical form (`Memory.wf`). -/
def Memory.write : Memory → Nat → Byte → Memory
  | [], a, b => Memory.cons a b []
  | (k, c) :: m, a, b =>
    if a < k then Memory.cons a b ((k, c) :: m)
    else if a = k then Memory.cons a b m
    else (k, c) :: Memory.write m a b

/-- `M[a], M[a+1], …` for `n` bytes (R15: a multi-byte transfer is a sequence of byte primitives). -/
def Memory.readBytes (m : Memory) (a : Nat) : Nat → List Byte
  | 0 => []
  | n + 1 => m.read a :: Memory.readBytes m (a + 1) n

/-- Store bytes at `a, a+1, …`, in that order (R15). -/
def Memory.writeBytes (m : Memory) (a : Nat) : List Byte → Memory
  | [] => m
  | b :: bs => Memory.writeBytes (m.write a b) (a + 1) bs

/-- Addresses rise strictly from at least `lo` and exist (R200), and no cell holds its reset value. -/
def Memory.wfFrom (lo : Nat) : Memory → Bool
  | [] => true
  | (a, b) :: m =>
    decide (lo ≤ a) && decide (a ≤ Params.memLast) && decide (b ≠ Memory.resetByte a) && Memory.wfFrom (a + 1) m

/-- The canonical form of memory: two memories in it that read alike are the same list. -/
def Memory.wf (m : Memory) : Bool := Memory.wfFrom 0 m

/-! ## Updates of one field -/

def State.setPc (s : State) (a : Word) : State := { s with pc := a }
def State.setI (s : State) (a : Word) : State := { s with i := a }
def State.setRegs (s : State) (v : Vector Byte 16) : State := { s with v := v }
def State.setDT (s : State) (b : Byte) : State := { s with dt := b }
def State.setST (s : State) (b : Byte) : State := { s with st := b }
def State.setMem (s : State) (m : Memory) : State := { s with mem := m }
def State.setFB (s : State) (fb : Framebuffer) : State := { s with fb := fb }
def State.setDirty (s : State) (d : Bool) : State := { s with dirty := d }
def State.setKeys (s : State) (k : Vector Bool 16) : State := { s with keys := k }
def State.setKprev (s : State) (k : Vector Bool 16) : State := { s with kprev := k }
def State.setStatus (s : State) (t : Status) : State := { s with status := t }
def State.setStack (s : State) (e : Vector Word 16) (n : Fin 17) : State := { s with stack := e, sp := n }
def State.setRndDraws (s : State) (n : Nat) : State := { s with rndDraws := n }

/-! ## Registers (R14, R101) -/

/-- `V[x]`. -/
def State.readV (s : State) (x : RegIdx) : Byte := s.v[x]

/-- `V[x] <- b`. None of the 16 registers is hardwired (R101). -/
def State.writeV (s : State) (x : RegIdx) (b : Byte) : State := s.setRegs (s.v.set x b)

/-- The byte at `a` of the state's memory (R15). -/
def State.readByte (s : State) (a : Nat) : Byte := s.mem.read a

/-- Pixel `FB[py][px]` (R14, R140). -/
def State.pixel (s : State) (px : Fin 64) (py : Fin 32) : Bool := s.fb[py][px]

/-- `pc <- pc + 2`, the advance of every instruction that is no jump, call, return, skip or key wait (R112). -/
def State.advance (s : State) : State := s.setPc (s.pc + 2)

/-- The advance of a skip: `pc + 4` when its condition holds, else `pc + 2` (R112, R500). -/
def State.skipIf (s : State) (c : Bool) : State := s.setPc (s.pc + if c then 4 else 2)

/-! ## Taking a fault (R16, R901) -/

/-- `raise Fault`: `status <- Faulted({kind, pc, opcode, detail})` and no other change. There is no trap mechanism and no
return from a fault (R909, R910): only the host's `reset` leaves it (R908). -/
def State.raiseFault (s : State) (cause : FaultCause) (opcode : Option Word) : State :=
  s.setStatus (.faulted ⟨cause, s.pc, opcode⟩)

/-- End instruction `ins` after its check: with the fault if the check found one, else in `done`. Every meaning that checks is
written with this, so its checks precede its writes (R16, R223). The record's opcode is the word of `ins`, which is the word
that was fetched (R154). -/
def State.unlessFault (s : State) (ins : Instr) (found : Option FaultCause) (done : State) : Result :=
  match found with
  | some cause => .next (s.raiseFault cause (some (encode ins)))
  | none => .next done

/-- `CheckRead(a, n)` (R220). -/
def checkRead (a : Word) (n : Nat) : Option FaultCause :=
  if 0 < n ∧ a.toNat + n - 1 > Params.memLast then some (.boundsFault (.readOutOfRange a n)) else none

/-- `CheckWrite(a, n)` (R221): first the end of memory, then the protected interpreter region (R907). -/
def checkWrite (a : Word) (n : Nat) : Option FaultCause :=
  if a.toNat + n - 1 > Params.memLast then some (.boundsFault (.writeOutOfRange a n))
  else if Params.protectInterpRegion = true ∧ a.toNat ≤ Params.interpHi then some (.boundsFault (.writeProtected a n))
  else none

/-! ## The numeric codes of a fault (R900) -/

/-- The code of a fault's kind (R900). The numbers are the spec's decision D36; notes/assumptions/11.md. -/
def FaultCause.code : FaultCause → Nat
  | .programCounterOutOfRange => 1
  | .unknownOpcode => 2
  | .stackFault _ => 3
  | .boundsFault _ => 4

/-- The sub-code of a fault's detail, where the kind has one (R900). -/
def FaultCause.subCode : FaultCause → Option Nat
  | .programCounterOutOfRange => none
  | .unknownOpcode => none
  | .stackFault .overflow => some 1
  | .stackFault .underflow => some 2
  | .boundsFault (.readOutOfRange _ _) => some 1
  | .boundsFault (.writeOutOfRange _ _) => some 2
  | .boundsFault (.writeProtected _ _) => some 3
  | .boundsFault (.fontDigit _) => some 4
  | .boundsFault (.keyIndex _) => some 5

/-! ## The call stack (R130 to R132) -/

/-- Push `a`: `S[sp] <- a; sp <- sp + 1`, or nothing at `sp = 16` (R131). -/
def State.push (s : State) (a : Word) : Option State :=
  if h : s.sp.val < 16 then some (s.setStack (s.stack.set s.sp.val a h) ⟨s.sp.val + 1, by omega⟩) else none

/-- Pop: `sp <- sp - 1` and the value `S[sp]`, or nothing at `sp = 0` (R131). The entry keeps its value (R132). -/
def State.pop (s : State) : Option (Word × State) :=
  if 0 < s.sp.val then
    some (s.stack[s.sp.val - 1]'(by omega), s.setStack s.stack ⟨s.sp.val - 1, by omega⟩)
  else none

/-! ## Fetch (R113, R211, R301, R313) -/

/-- The two bytes at `pc`, the first at the lower address. -/
def State.fetchBytes (s : State) : List Byte := s.mem.readBytes s.pc.toNat 2

/-- The word at `pc` (R301). -/
def State.fetchWord (s : State) : Word := composeWord (s.readByte s.pc.toNat) (s.readByte (s.pc.toNat + 1))

/-- `pc` lies where a fetch is allowed, `[0x200, 0xE9F]` (R113). -/
def State.pcInRange (s : State) : Bool := decide (Params.progLo ≤ s.pc.toNat) && decide (s.pc.toNat ≤ Params.progHi)

/-- Fetch and decode the instruction at `pc`: the range check comes first and records no opcode (R902), then the decoder, whose
rejection is `UnknownOpcode` with the fetched word (R903; the order is R907's). -/
def State.fetchInstr (s : State) : Except (FaultCause × Option Word) Instr :=
  if s.pcInRange then
    match decode s.fetchBytes with
    | .ok (ins, _) => .ok ins
    | .error _ => .error (.unknownOpcode, some s.fetchWord)
  else .error (.programCounterOutOfRange, none)

/-- `s` with the word `w` placed where the next step fetches: `w` big-endian at `pc` (R230), `pc` moved to 0x200 if no fetch is
allowed where it stands, and `status` `Running`, without which a step fetches nothing (R313). -/
def State.placeWord (s : State) (w : Word) : State :=
  let t := if s.pcInRange then s else s.setPc (BitVec.ofNat 16 Params.progLo)
  (t.setStatus .running).setMem (t.mem.writeBytes t.pc.toNat [highByte w, lowByte w])

end Sys2Proof.Machine
end

