-- ==== Sys2Proof/Machine/Flags.lean ====
section
/-!
DEFINITION. The flag outcomes of spec/10_state.md R118 and the write order of spec/42_register_alu.md R600. The CORE's only
flag is `VF`.
-/
namespace Sys2Proof.Machine

/-- A flag as the byte that `VF` receives: 1 or 0 (R118). -/
def flagByte (f : Bool) : Byte := if f then 1 else 0

/-- `8XY4`: carry, `a + b > 255` (R118, R614). -/
def carryFlag (a b : Byte) : Bool := decide (a.toNat + b.toNat > 255)

/-- `8XY5`, `8XY7`: NOT borrow of `minuend - subtrahend`; 0 iff the subtrahend is the greater (R118, R615, R617). -/
def noBorrowFlag (minuend subtrahend : Byte) : Bool := decide (subtrahend.toNat ≤ minuend.toNat)

/-- `8XY6`: bit 0 of the shifted value (R118, R616). -/
def shiftRightFlag (a : Byte) : Bool := a.getLsbD 0

/-- `8XYE`: bit 7 of the shifted value (R118, R618). -/
def shiftLeftFlag (a : Byte) : Bool := a.getLsbD 7

/-- End an instruction that writes a result: `V[X] <- result; pc <- pc + 2` (R600). -/
def State.finish (s : State) (x : RegIdx) (result : Byte) : State := (s.writeV x result).advance

/-- End an instruction that writes a result and a flag: "VF is written last so it is not itself clobbered by the arithmetic op
when `X==0xF`" (R600). -/
def State.finishWithFlag (s : State) (x : RegIdx) (result : Byte) (flag : Bool) : State :=
  ((s.writeV x result).writeV VF (flagByte flag)).advance

end Sys2Proof.Machine
end

