-- ==== Sys2Proof/Machine/Alu.lean ====
section
/-!
DEFINITION. The register file and ALU: `6XNN`, `7XNN`, `8XY0` to `8XY7`, `8XYE`, `CXNN` (spec/42_register_alu.md). Operands and
flags are taken from the values before the instruction (R600); arithmetic is exact and then narrowed modulo 256 (R620).
-/
namespace Sys2Proof.Machine

/-- `(a + b) mod 256` (R602, R614). -/
def addBytes (a b : Byte) : Byte := BitVec.ofNat 8 (a.toNat + b.toNat)

/-- `(minuend - subtrahend + 256) mod 256` (R615, R617). -/
def subBytes (minuend subtrahend : Byte) : Byte := BitVec.ofNat 8 (minuend.toNat + 256 - subtrahend.toNat)

/-- `6XNN` `LD VX, NN` (R601). -/
def execLdImm (x : RegIdx) (nn : Byte) (s : State) : Result := .next (s.finish x nn)

/-- `7XNN` `ADD VX, NN` (R602): "wrapping 8-bit add, no flag change". -/
def execAddImm (x : RegIdx) (nn : Byte) (s : State) : Result := .next (s.finish x (addBytes (s.readV x) nn))

/-- `8XY0` `LD VX, VY` (R610). -/
def execLdReg (x y : RegIdx) (s : State) : Result := .next (s.finish x (s.readV y))

/-- `8XY1` `OR VX, VY` (R611). -/
def execOrReg (x y : RegIdx) (s : State) : Result := .next (s.finish x (s.readV x ||| s.readV y))

/-- `8XY2` `AND VX, VY` (R612). -/
def execAndReg (x y : RegIdx) (s : State) : Result := .next (s.finish x (s.readV x &&& s.readV y))

/-- `8XY3` `XOR VX, VY` (R613). -/
def execXorReg (x y : RegIdx) (s : State) : Result := .next (s.finish x (s.readV x ^^^ s.readV y))

/-- `8XY4` `ADD VX, VY` (R614). -/
def execAddReg (x y : RegIdx) (s : State) : Result :=
  .next (s.finishWithFlag x (addBytes (s.readV x) (s.readV y)) (carryFlag (s.readV x) (s.readV y)))

/-- `8XY5` `SUB VX, VY` (R615). -/
def execSubReg (x y : RegIdx) (s : State) : Result :=
  .next (s.finishWithFlag x (subBytes (s.readV x) (s.readV y)) (noBorrowFlag (s.readV x) (s.readV y)))

/-- `8XY6` `SHR VX, VY` (R616): `V[X]` is shifted, `V[Y]` is not read (the spec's decision D4; notes/assumptions/6.md). -/
def execShr (x _y : RegIdx) (s : State) : Result :=
  .next (s.finishWithFlag x (s.readV x >>> 1) (shiftRightFlag (s.readV x)))

/-- `8XY7` `SUBN VX, VY` (R617). -/
def execSubn (x y : RegIdx) (s : State) : Result :=
  .next (s.finishWithFlag x (subBytes (s.readV y) (s.readV x)) (noBorrowFlag (s.readV y) (s.readV x)))

/-- `8XYE` `SHL VX, VY` (R618): `V[X]` is shifted, `V[Y]` is not read (the spec's decision D4; notes/assumptions/6.md). -/
def execShl (x _y : RegIdx) (s : State) : Result :=
  .next (s.finishWithFlag x (s.readV x <<< 1) (shiftLeftFlag (s.readV x)))

/-- `CXNN` `RND VX, NN` (R640): `V[X] <- rnd & NN`, where `rnd` is the free value of this draw, and the next draw is another
(notes/assumptions/1.md). -/
def execRnd (x : RegIdx) (nn : Byte) (s : State) : Result :=
  .next ((s.setRndDraws (s.rndDraws + 1)).finish x (Config.randomByte s.rndDraws &&& nn))

end Sys2Proof.Machine
end

