-- ==== Sys2Proof/Machine/Operands.lean ====
section
/-!
DEFINITION. The operand forms of spec/30_encoding.md R305 and spec/43_index_memory.md R706: immediates, the two address sums,
the font address, the key index, and the registers a bulk transfer moves.
-/
namespace Sys2Proof.Machine

/-- `zext_16(NNN)` (R304). -/
def zextAddr (nnn : Addr12) : Word := nnn.setWidth 16

/-- `zext_16(b)` of a register's value (R508, R701). -/
def zextByte (b : Byte) : Word := b.setWidth 16

/-- The target of `BNNN`: `zext_16(NNN) + zext_16(V[0])`, a 16-bit sum with no 12-bit wrap (R508). -/
def indexedTarget (nnn : Addr12) (v0 : Byte) : Word := zextAddr nnn + zextByte v0

/-- `(I + zext_16(b)) mod 2^16` (R701). -/
def indexSum (i : Word) (b : Byte) : Word := i + zextByte b

/-- `FONT_BASE + 5 * d`, the address of the glyph of digit `d` (R702). -/
def glyphAddr (d : Byte) : Word := BitVec.ofNat 16 (Params.fontBase + 5 * d.toNat)

/-- The check of `FX29`: a digit above 0xF has no glyph (R702). -/
def checkFontDigit (d : Byte) : Option FaultCause :=
  if d.toNat > 0xF then some (.boundsFault (.fontDigit d)) else none

/-- The check of `EX9E` and `EXA1`: a key index above 0xF names no key (R800, R801). -/
def checkKeyIndex (k : Byte) : Option FaultCause :=
  if k.toNat > 0xF then some (.boundsFault (.keyIndex k)) else none

/-- `K[k]`; `checkKeyIndex` precedes every use, so `k ≤ 0xF` there. -/
def State.keyPressed (s : State) (k : Byte) : Bool := s.keys.toList.getD k.toNat false

/-- The decimal digits of `b`: hundreds, tens, ones (R703). -/
def bcdDigits (b : Byte) : List Byte :=
  [BitVec.ofNat 8 (b.toNat / 100), BitVec.ofNat 8 (b.toNat / 10 % 10), BitVec.ofNat 8 (b.toNat % 10)]

/-- `V[0..x]`, in that order (R704). -/
def State.regsUpTo (s : State) (x : RegIdx) : List Byte := s.v.toList.take (x.val + 1)

/-- `for i in 0..n-1: V[i] <- MemRead(a + i, 1)` (R705). -/
def loadInto (m : Memory) (a : Nat) (v : Vector Byte 16) : Nat → Vector Byte 16
  | 0 => v
  | n + 1 => (loadInto m a v n).setIfInBounds n (m.read (a + n))

end Sys2Proof.Machine
end

