-- ==== Sys2Proof/Machine/Control.lean ====
section
/-!
DEFINITION. Control flow: `00EE`, `1NNN`, `2NNN`, `3XNN`, `4XNN`, `5XY0`, `9XY0`, `BNNN` (spec/41_control_flow.md). A target is
written as it is; the next fetch checks it (R500).
-/
namespace Sys2Proof.Machine

/-- `00EE` `RET` (R501): pop into `pc`, or `StackFault(underflow)`. -/
def execRet (s : State) : Result :=
  match s.pop with
  | some (a, t) => .next (t.setPc a)
  | none => .next (s.raiseFault (.stackFault .underflow) (some (encode .ret)))

/-- `1NNN` `JP NNN` (R502). -/
def execJp (nnn : Addr12) (s : State) : Result := .next (s.setPc (zextAddr nnn))

/-- `2NNN` `CALL NNN` (R503): push `pc + 2`, or `StackFault(overflow)`. -/
def execCall (nnn : Addr12) (s : State) : Result :=
  match s.push (s.pc + 2) with
  | some t => .next (t.setPc (zextAddr nnn))
  | none => .next (s.raiseFault (.stackFault .overflow) (some (encode (.call nnn))))

/-- `3XNN` `SE VX, NN` (R504). -/
def execSeImm (x : RegIdx) (nn : Byte) (s : State) : Result := .next (s.skipIf (s.readV x == nn))

/-- `4XNN` `SNE VX, NN` (R505). -/
def execSneImm (x : RegIdx) (nn : Byte) (s : State) : Result := .next (s.skipIf (s.readV x != nn))

/-- `5XY0` `SE VX, VY` (R506). -/
def execSeReg (x y : RegIdx) (s : State) : Result := .next (s.skipIf (s.readV x == s.readV y))

/-- `9XY0` `SNE VX, VY` (R507). -/
def execSneReg (x y : RegIdx) (s : State) : Result := .next (s.skipIf (s.readV x != s.readV y))

/-- `BNNN` `JP V0, NNN` (R508). -/
def execJpV0 (nnn : Addr12) (s : State) : Result := .next (s.setPc (indexedTarget nnn (s.readV 0)))

end Sys2Proof.Machine
end

