-- ==== Sys2Proof/Machine/Display.lean ====
section
/-!
DEFINITION. The display family, `00E0` and `DXYN` (spec/40_display.md), with both sprite edge policies (R403, R404).
-/
namespace Sys2Proof.Machine

/-- Where pixel `(col, row)` of a sprite at `(x0, y0)` falls on the screen. Under `wrap`: both coordinates modulo the screen's
size, without 8-bit truncation (R403). Under `clip`: the start wraps and what leaves the screen is discarded (R404). -/
def spritePixel (p : EdgePolicy) (x0 y0 col row : Nat) : Option (Fin 64 × Fin 32) :=
  match p with
  | .wrap => some (⟨(x0 + col) % 64, Nat.mod_lt _ (by omega)⟩, ⟨(y0 + row) % 32, Nat.mod_lt _ (by omega)⟩)
  | .clip =>
    if h : x0 % 64 + col ≤ 63 ∧ y0 % 32 + row ≤ 31 then
      some (⟨x0 % 64 + col, by omega⟩, ⟨y0 % 32 + row, by omega⟩)
    else none

/-- A framebuffer being drawn on, and the collision bit accumulated so far (R405). -/
structure Canvas where
  fb : Framebuffer
  collision : Bool
deriving DecidableEq, Repr

/-- XOR one pixel with 1, and record a collision if it was 1 (R402). -/
def Canvas.flip (c : Canvas) (at' : Fin 64 × Fin 32) : Canvas where
  fb := c.fb.set at'.2 (c.fb[at'.2].set at'.1 (!c.fb[at'.2][at'.1]))
  collision := c.collision || c.fb[at'.2][at'.1]

/-- Column `col` of the sprite row `b`: "bit 7 is column 0 (leftmost)"; a 0 bit leaves its pixel unchanged (R402). -/
def Canvas.drawColumn (p : EdgePolicy) (x0 y0 row : Nat) (b : Byte) (c : Canvas) (col : Nat) : Canvas :=
  if b.getLsbD (7 - col) then
    match spritePixel p x0 y0 col row with
    | some at' => c.flip at'
    | none => c
  else c

/-- One sprite row, columns 0 to 7 (R402). -/
def Canvas.drawRow (p : EdgePolicy) (x0 y0 row : Nat) (b : Byte) (c : Canvas) : Canvas :=
  [0, 1, 2, 3, 4, 5, 6, 7].foldl (Canvas.drawColumn p x0 y0 row b) c

/-- The sprite rows from `row` on, one byte each (R402). -/
def Canvas.drawRows (p : EdgePolicy) (x0 y0 : Nat) : Nat → List Byte → Canvas → Canvas
  | _, [], c => c
  | row, b :: bs, c => Canvas.drawRows p x0 y0 (row + 1) bs (Canvas.drawRow p x0 y0 row b c)

/-- The drawing of `DXYN` on the screen of `s`: coordinates, sprite bytes and pixels as they stood before the instruction
(R402 (a), (b)). -/
def State.drawn (p : EdgePolicy) (x y : RegIdx) (n : Nat) (s : State) : Canvas :=
  Canvas.drawRows p (s.readV x).toNat (s.readV y).toNat 0 (s.mem.readBytes s.i.toNat n) ⟨s.fb, false⟩

/-- `DXYN` under a given edge policy: check, draw, `dirty <- 1`, then `VF <- collision` after every pixel (R402). -/
def execDrwUnder (p : EdgePolicy) (x y : RegIdx) (n : Nat) (s : State) : Result :=
  let c := s.drawn p x y n
  s.unlessFault (.drw x y n) (checkRead s.i n)
    (((s.setFB c.fb).setDirty true).finish VF (flagByte c.collision))

/-- `DXYN` `DRW VX, VY, N` (R402). -/
def execDrw (x y : RegIdx) (n : Nat) (s : State) : Result := execDrwUnder Params.spriteEdgePolicy x y n s

/-- `00E0` `CLS` (R401). -/
def execCls (s : State) : Result := .next ((s.setFB Framebuffer.clear).setDirty true).advance

end Sys2Proof.Machine
end

