-- ==== Sys2Proof/Machine/Index.lean ====
section
/-!
DEFINITION. The address register and the memory transfers: `ANNN`, `FX1E`, `FX29`, `FX33`, `FX55`, `FX65`
(spec/43_index_memory.md). A transfer checks its whole byte range before its first write (R223) and leaves `I` as it is (R706).
-/
namespace Sys2Proof.Machine

/-- `ANNN` `LD I, NNN` (R700). -/
def execLdI (nnn : Addr12) (s : State) : Result := .next (s.setI (zextAddr nnn)).advance

/-- `FX1E` `ADD I, VX` (R701): no flag, no check of the sum. -/
def execAddI (x : RegIdx) (s : State) : Result := .next (s.setI (indexSum s.i (s.readV x))).advance

/-- `FX29` `LD F, VX` (R702). -/
def execLdFont (x : RegIdx) (s : State) : Result :=
  s.unlessFault (.ldFont x) (checkFontDigit (s.readV x)) (s.setI (glyphAddr (s.readV x))).advance

/-- `FX33` `LD B, VX` (R703). -/
def execLdBcd (x : RegIdx) (s : State) : Result :=
  s.unlessFault (.ldBcd x) (checkWrite s.i 3) (s.setMem (s.mem.writeBytes s.i.toNat (bcdDigits (s.readV x)))).advance

/-- `FX55` `LD [I], VX` (R704). -/
def execStoreRegs (x : RegIdx) (s : State) : Result :=
  s.unlessFault (.storeRegs x) (checkWrite s.i (x.val + 1))
    (s.setMem (s.mem.writeBytes s.i.toNat (s.regsUpTo x))).advance

/-- `FX65` `LD VX, [I]` (R705). -/
def execLoadRegs (x : RegIdx) (s : State) : Result :=
  s.unlessFault (.loadRegs x) (checkRead s.i (x.val + 1))
    (s.setRegs (loadInto s.mem s.i.toNat s.v (x.val + 1))).advance

end Sys2Proof.Machine
end

