-- ==== Sys2Proof/Machine/KeysTimers.lean ====
section
/-!
DEFINITION. Keys and timers: `EX9E`, `EXA1`, `FX07`, `FX0A` with its poll, `FX15`, `FX18` (spec/44_keys_timers.md).
-/
namespace Sys2Proof.Machine

/-- `EX9E` `SKP VX` (R800). -/
def execSkp (x : RegIdx) (s : State) : Result :=
  s.unlessFault (.skp x) (checkKeyIndex (s.readV x)) (s.skipIf (s.keyPressed (s.readV x)))

/-- `EXA1` `SKNP VX` (R801). -/
def execSknp (x : RegIdx) (s : State) : Result :=
  s.unlessFault (.sknp x) (checkKeyIndex (s.readV x)) (s.skipIf (!s.keyPressed (s.readV x)))

/-- `FX07` `LD VX, DT` (R802). -/
def execLdFromDT (x : RegIdx) (s : State) : Result := .next (s.finish x s.dt)

/-- `FX15` `LD DT, VX` (R805). -/
def execLdToDT (x : RegIdx) (s : State) : Result := .next (s.setDT (s.readV x)).advance

/-- `FX18` `LD ST, VX` (R806). -/
def execLdToST (x : RegIdx) (s : State) : Result := .next (s.setST (s.readV x)).advance

/-- `FX0A` `LD VX, K`, the entry of the wait (R803): snapshot the keys, wait, leave `pc`. -/
def execLdKey (x : RegIdx) (s : State) : Result := .next ((s.setKprev s.keys).setStatus (.awaitingKey x))

/-- Key `k` went from not pressed in the snapshot to pressed now (R804). -/
def State.pressEdge (s : State) (k : KeyIdx) : Bool := s.keys[k] && !s.kprev[k]

/-- `min(E)`, the lowest key with a press edge, if any has one (R804). -/
def State.lowestEdge (s : State) : Option KeyIdx := (List.finRange 16).find? s.pressEdge

/-- `poll(x)`, a step while `AwaitingKey(x)` (R804): no fetch; a press edge ends the wait. -/
def State.poll (s : State) (x : RegIdx) : State :=
  match s.lowestEdge with
  | none => s.setKprev s.keys
  | some k => (((s.setKprev s.keys).writeV x (BitVec.ofNat 8 k.val)).setStatus .running).advance

end Sys2Proof.Machine
end

