-- ==== Sys2Proof/Machine/Step.lean ====
section
/-!
DEFINITION. The `step` command of spec/30_encoding.md R313, and the host's way to place an instruction where it fetches.
-/
namespace Sys2Proof.Machine

/-- One core cycle (R313): nothing in `Faulted` (R908), a poll in `AwaitingKey(x)` (R804), else fetch, decode and execute. -/
def step (s : State) : Host.Outcome State Fault Refusal :=
  match s.status with
  | .faulted _ => .next s
  | .awaitingKey x => .next (s.poll x)
  | .running =>
    match s.fetchInstr with
    | .ok ins => exec ins s
    | .error (cause, opcode) => .next (s.raiseFault cause opcode)

/-- `s` with the instruction of `nbits` bits `w` placed where `step` fetches next. A program comes to run by the host's
`load_rom`, for which this stands (notes/assumptions/7.md). -/
def State.withFetchWord (s : State) (nbits w : Nat) : State := s.placeWord (BitVec.ofNat 16 (w % 2 ^ nbits))

end Sys2Proof.Machine
end

