-- ==== Sys2Proof/Machine/HostOps.lean ====
section
/-!
DEFINITION. The operations of the other two agents (spec/00_scope.md R9): the timer-decay engine's `tick`
(spec/60_exceptions.md R920) and the host's `reset`, `load_rom`, `set_key`, `clear_dirty` and reads (spec/10_state.md R160 to
R165, spec/70_reset_and_hazards.md).
-/
namespace Sys2Proof.Machine

/-- A timer one tick later: one less, "clamped at 0" (R920). -/
def decay (t : Byte) : Byte := if t.toNat > 0 then BitVec.ofNat 8 (t.toNat - 1) else t

/-- `tick` (R920): both timers decay in the same tick, and the result is `sound_edge`, 1 exactly when `ST` goes from 1 to 0
(R922). A faulted machine does not tick (R923). -/
def State.tick (s : State) : State × Bool :=
  match s.status with
  | .faulted _ => (s, false)
  | .running => ((s.setDT (decay s.dt)).setST (decay s.st), s.st == 1)
  | .awaitingKey _ => ((s.setDT (decay s.dt)).setST (decay s.st), s.st == 1)

/-- What `load_rom` answers (R161). -/
inductive LoadResult where
  | ok
  /-- "`RomTooLarge(length, capacity)`", a result and no fault (R906) -/
  | romTooLarge (length capacity : Nat)
deriving DecidableEq, Repr

/-- The code of a failed load (R900). The numbers are the spec's decision D36; notes/assumptions/11.md. -/
def LoadResult.code : LoadResult → Option Nat
  | .ok => none
  | .romTooLarge _ _ => some 5

/-- `load_rom` (R1010 to R1013): "succeed iff `L <= (0xE9F - 0x200 + 1)`"; "zero the program region then copy the L bytes into
it starting at `0x200`". It changes memory only, in any status (R165). -/
def State.loadRom (s : State) (bytes : List Byte) : State × LoadResult :=
  if bytes.length ≤ Params.romCapacity then
    let zeroed := s.mem.writeBytes Params.progLo (List.replicate Params.romCapacity 0)
    (s.setMem (zeroed.writeBytes Params.progLo bytes), .ok)
  else (s, .romTooLarge bytes.length Params.romCapacity)

/-- `set_key(k, pressed)`: `K[k] <- pressed` and nothing else (R163). -/
def State.setKey (s : State) (k : KeyIdx) (pressed : Bool) : State := s.setKeys (s.keys.set k pressed)

/-- `clear_dirty`: `dirty <- 0` and nothing else (R164). -/
def State.clearDirty (s : State) : State := s.setDirty false

/-- The framebuffer as the host reads it: the pixel of linear index `y * 64 + x` at that place (R140, R161, R930). -/
def State.screen (s : State) : List Bool := (s.fb.toList.map Vector.toList).flatten

end Sys2Proof.Machine
end

