-- ==== Sys2Proof/Machine/Commands.lean ====
section
/-!
DEFINITION. The command interface of the CORE (spec/10_state.md R160 to R165): the commands of all three agents, each atomic,
in one total order (spec/20_memory.md R240).
-/
namespace Sys2Proof.Machine

/-- A command of the core, of the timer-decay engine or of the host (R9, R160). The random byte that R160 gives `step` as its
input is the free value of the state's next draw (notes/assumptions/1.md). -/
inductive Command where
  | reset
  | loadRom (bytes : List Byte)
  | step
  | tick
  | setKey (k : KeyIdx) (pressed : Bool)
  | clearDirty
deriving DecidableEq, Repr

/-- What a command hands back (R161, R940). -/
inductive Reply where
  | nothing
  | loaded (r : LoadResult)
  | soundEdge (edge : Bool)
deriving DecidableEq, Repr

/-- Apply one command (R160). `reset` gives the construction state from any state (R1000), except that the model's own counter
of random draws goes on, since `rnd` is independent of all state (R640). -/
def State.apply (s : State) : Command → Host.Outcome (State × Reply) Fault Refusal
  | .reset => .next (State.reset.setRndDraws s.rndDraws, .nothing)
  | .loadRom bytes => .next ((s.loadRom bytes).1, .loaded (s.loadRom bytes).2)
  | .step =>
    match Sys2Proof.Machine.step s with
    | .next t => .next (t, .nothing)
    | .fault r => .fault r
    | .refused r => .refused r
  | .tick => .next (s.tick.1, .soundEdge s.tick.2)
  | .setKey k pressed => .next (s.setKey k pressed, .nothing)
  | .clearDirty => .next (s.clearDirty, .nothing)

/-- Apply commands in their order, any interleaving of the agents (R240), with every reply. -/
def State.applyAll (s : State) : List Command → Host.Outcome (State × List Reply) Fault Refusal
  | [] => .next (s, [])
  | c :: cs =>
    match s.apply c with
    | .next (t, r) =>
      match State.applyAll t cs with
      | .next (u, rs) => .next (u, r :: rs)
      | .fault f => .fault f
      | .refused f => .refused f
    | .fault f => .fault f
    | .refused f => .refused f

end Sys2Proof.Machine
end

