-- ==== Sys2Proof/Safety.lean ====
section
/-!
DEFINITION. The terms claims are stated in: what a step leaves unchanged (its frame), the invariant of the machine, faulted and
quiescent states, and runs of commands.
-/
namespace Sys2Proof.Machine

/-! ## Frames -/

/-- The pieces of state of R100, and the model's own counter. -/
inductive Part where
  | regs
  | index
  | pc
  | stack
  | delayTimer
  | soundTimer
  | memory
  | screen
  | dirty
  | keys
  | keySnapshot
  | status
  | randomDraws
deriving DecidableEq, Repr

/-- `t` holds the same as `s` in one piece of state. Memory is compared through the read of one byte, at every address. -/
def Part.same (s t : State) : Part → Prop
  | .regs => ∀ r : RegIdx, t.readV r = s.readV r
  | .index => t.i = s.i
  | .pc => t.pc = s.pc
  | .stack => t.stack = s.stack ∧ t.sp = s.sp
  | .delayTimer => t.dt = s.dt
  | .soundTimer => t.st = s.st
  | .memory => ∀ a : Nat, t.readByte a = s.readByte a
  | .screen => ∀ (px : Fin 64) (py : Fin 32), t.pixel px py = s.pixel px py
  | .dirty => t.dirty = s.dirty
  | .keys => t.keys = s.keys
  | .keySnapshot => t.kprev = s.kprev
  | .status => t.status = s.status
  | .randomDraws => t.rndDraws = s.rndDraws

/-- Nothing but the listed pieces differs between `s` and `t`. -/
def Frame (changed : List Part) (s t : State) : Prop := ∀ p : Part, p ∉ changed → p.same s t

/-- No general register but the listed ones differs between `s` and `t`. -/
def RegsExcept (xs : List RegIdx) (s t : State) : Prop := ∀ r : RegIdx, r ∉ xs → t.readV r = s.readV r

/-- Memory reads the same outside `[a, a+n)`. -/
def MemExcept (a n : Nat) (s t : State) : Prop := ∀ q : Nat, ¬ (a ≤ q ∧ q < a + n) → t.readByte q = s.readByte q

/-- Instruction `i` answers the fault `cause` from `s`: a next state that differs from `s` in `status` only, which holds the
record of R154 with the pc of `s` and the word of `i` (R16, R901). -/
def FaultsWith (i : Instr) (s : State) (cause : FaultCause) : Prop :=
  exec i s = .next { s with status := .faulted ⟨cause, s.pc, some (encode i)⟩ }

/-! ## What each instruction may write, as the spec's tables of writers say -/

end Sys2Proof.Machine

namespace Sys2Proof

open Machine

/-- The pieces of state an instruction may write: R102 and R103 (registers), R121 (`I`), R125 (timers), R130 and R131 (stack),
R140 and R141 (screen, `dirty`), R152 (`Kprev`), R210 (memory), R900 (which instructions fault, so write `status`), R112 (`pc`). -/
def Instr.writes : Instr → List Part
  | .cls => [.screen, .dirty, .pc]
  | .ret => [.stack, .pc, .status]
  | .jp _ => [.pc]
  | .call _ => [.stack, .pc, .status]
  | .seImm _ _ => [.pc]
  | .sneImm _ _ => [.pc]
  | .seReg _ _ => [.pc]
  | .ldImm _ _ => [.regs, .pc]
  | .addImm _ _ => [.regs, .pc]
  | .ldReg _ _ => [.regs, .pc]
  | .orReg _ _ => [.regs, .pc]
  | .andReg _ _ => [.regs, .pc]
  | .xorReg _ _ => [.regs, .pc]
  | .addReg _ _ => [.regs, .pc]
  | .subReg _ _ => [.regs, .pc]
  | .shr _ _ => [.regs, .pc]
  | .subn _ _ => [.regs, .pc]
  | .shl _ _ => [.regs, .pc]
  | .sneReg _ _ => [.pc]
  | .ldI _ => [.index, .pc]
  | .jpV0 _ => [.pc]
  | .rnd _ _ => [.regs, .pc, .randomDraws]
  | .drw _ _ _ => [.regs, .screen, .dirty, .pc, .status]
  | .skp _ => [.pc, .status]
  | .sknp _ => [.pc, .status]
  | .ldFromDT _ => [.regs, .pc]
  | .ldKey _ => [.keySnapshot, .status]
  | .ldToDT _ => [.delayTimer, .pc]
  | .ldToST _ => [.soundTimer, .pc]
  | .addI _ => [.index, .pc]
  | .ldFont _ => [.index, .pc, .status]
  | .ldBcd _ => [.memory, .pc, .status]
  | .storeRegs _ => [.memory, .pc, .status]
  | .loadRegs _ => [.regs, .pc, .status]

/-- The general registers an instruction may write: its destination field, `VF` where it defines a flag, `V[0..X]` for `FX65`
(R102, R103, R118). `FX0A` writes its register in the poll that ends the wait, not here (R803, R804). -/
def Instr.destRegs : Instr → List RegIdx
  | .ldImm x _ | .addImm x _ | .ldReg x _ | .orReg x _ | .andReg x _ | .xorReg x _ | .rnd x _ | .ldFromDT x => [x]
  | .addReg x _ | .subReg x _ | .shr x _ | .subn x _ | .shl x _ => [x, VF]
  | .drw _ _ _ => [VF]
  | .loadRegs x => (List.finRange 16).filter (· ≤ x)
  | .cls | .ret | .jp _ | .call _ | .seImm _ _ | .sneImm _ _ | .seReg _ _ | .sneReg _ _ | .ldI _ | .jpV0 _ | .skp _
  | .sknp _ | .ldKey _ | .ldToDT _ | .ldToST _ | .addI _ | .ldFont _ | .ldBcd _ | .storeRegs _ => []

/-- How many bytes an instruction stores, from the address in `I` on: the writes of R210, `I .. I+2` by `FX33` and `I .. I+X` by
`FX55`. -/
def Instr.storeLen : Instr → Nat
  | .ldBcd _ => 3
  | .storeRegs x => x.val + 1
  | .cls | .ret | .jp _ | .call _ | .seImm _ _ | .sneImm _ _ | .seReg _ _ | .ldImm _ _ | .addImm _ _ | .ldReg _ _
  | .orReg _ _ | .andReg _ _ | .xorReg _ _ | .addReg _ _ | .subReg _ _ | .shr _ _ | .subn _ _ | .shl _ _ | .sneReg _ _
  | .ldI _ | .jpV0 _ | .rnd _ _ | .drw _ _ _ | .skp _ | .sknp _ | .ldFromDT _ | .ldKey _ | .ldToDT _ | .ldToST _ | .addI _
  | .ldFont _ | .loadRegs _ => 0

/-- How an instruction that does not fault moves `pc` (R112). -/
inductive PcMove where
  /-- `pc <- pc + 2` -/
  | sequential
  /-- `pc + 4` or `pc + 2` -/
  | skip
  /-- set absolutely -/
  | absolute
  /-- left as it is: the entry of `FX0A` -/
  | stays
deriving DecidableEq, Repr

/-- The class of each instruction in R112. -/
def Instr.pcMove : Instr → PcMove
  | .ret | .jp _ | .call _ | .jpV0 _ => .absolute
  | .seImm _ _ | .sneImm _ _ | .seReg _ _ | .sneReg _ _ | .skp _ | .sknp _ => .skip
  | .ldKey _ => .stays
  | .cls | .ldImm _ _ | .addImm _ _ | .ldReg _ _ | .orReg _ _ | .andReg _ _ | .xorReg _ _ | .addReg _ _ | .subReg _ _
  | .shr _ _ | .subn _ _ | .shl _ _ | .ldI _ | .rnd _ _ | .drw _ _ _ | .ldFromDT _ | .ldToDT _ | .ldToST _ | .addI _
  | .ldFont _ | .ldBcd _ | .storeRegs _ | .loadRegs _ => .sequential

/-- Which instruction may raise which fault: the column "raised by" of R900. -/
def Instr.mayRaise (i : Instr) : FaultCause → Bool
  | .programCounterOutOfRange => false
  | .unknownOpcode => false
  | .stackFault .overflow => match i with | .call _ => true | _ => false
  | .stackFault .underflow => match i with | .ret => true | _ => false
  | .boundsFault (.readOutOfRange _ _) => match i with | .drw _ _ _ | .loadRegs _ => true | _ => false
  | .boundsFault (.writeOutOfRange _ _) => match i with | .ldBcd _ | .storeRegs _ => true | _ => false
  | .boundsFault (.writeProtected _ _) => match i with | .ldBcd _ | .storeRegs _ => true | _ => false
  | .boundsFault (.fontDigit _) => match i with | .ldFont _ => true | _ => false
  | .boundsFault (.keyIndex _) => match i with | .skp _ | .sknp _ => true | _ => false

end Sys2Proof

namespace Sys2Proof.Machine

/-! ## Unknown words -/

/-- The unknown words, as the table of R310 lists them, on the opcode as a number. -/
def UnknownWord (w : Word) : Prop :=
  w.toNat / 0x1000 = 0x0 ∧ w.toNat ≠ 0x00E0 ∧ w.toNat ≠ 0x00EE ∨
  w.toNat / 0x1000 = 0x5 ∧ w.toNat % 0x10 ≠ 0 ∨
  w.toNat / 0x1000 = 0x8 ∧ w.toNat % 0x10 ∈ [0x8, 0x9, 0xA, 0xB, 0xC, 0xD, 0xF] ∨
  w.toNat / 0x1000 = 0x9 ∧ w.toNat % 0x10 ≠ 0 ∨
  w.toNat / 0x1000 = 0xE ∧ w.toNat % 0x100 ∉ [0x9E, 0xA1] ∨
  w.toNat / 0x1000 = 0xF ∧ w.toNat % 0x100 ∉ [0x07, 0x0A, 0x15, 0x18, 0x1E, 0x29, 0x33, 0x55, 0x65]

/-! ## Sprites -/

/-- A set bit of the sprite that `DXYN` reads at `I` falls on pixel `(px, py)` when coordinates wrap (R402, R403). -/
def SpriteHits (s : State) (x y : RegIdx) (n : Nat) (px : Fin 64) (py : Fin 32) : Prop :=
  ∃ row col : Nat, row < n ∧ col < 8 ∧ (s.readByte (s.i.toNat + row)).getLsbD (7 - col) = true ∧
    px.val = ((s.readV x).toNat + col) % 64 ∧ py.val = ((s.readV y).toNat + row) % 32

/-- The same under `SPRITE_EDGE_POLICY = clip`: the start wraps, and a pixel that leaves the screen is discarded (R404). -/
def SpriteHitsClipped (s : State) (x y : RegIdx) (n : Nat) (px : Fin 64) (py : Fin 32) : Prop :=
  ∃ row col : Nat, row < n ∧ col < 8 ∧ (s.readByte (s.i.toNat + row)).getLsbD (7 - col) = true ∧
    px.val = (s.readV x).toNat % 64 + col ∧ py.val = (s.readV y).toNat % 32 + row

/-- The range check of `DXYN` passes: it reads nothing, or nothing past 0xFFF (R220, R402). -/
def SpriteReadable (s : State) (n : Nat) : Prop := n = 0 ∨ s.i.toNat + n - 1 ≤ 0xFFF

/-! ## The invariant -/

/-- Memory is in its canonical form, and the interpreter region holds what reset put there: the font table, and 0 elsewhere
(R200, R204, R222). -/
def Inv (s : State) : Prop := s.mem.wf = true ∧ ∀ a : Nat, a ≤ 0x1FF → s.readByte a = Memory.resetByte a

/-! ## Faulted, waiting and quiescent states -/

/-- The machine has halted on a fault (R153). -/
def Faulted (s : State) : Prop := ∃ r, s.status = .faulted r

/-- "A run ends (the CORE is quiescent)" in a faulted state, or where a running machine's word at `pc` is a jump to itself
(R941 (a), (b)). -/
def Quiescent (s : State) : Prop :=
  Faulted s ∨ s.status = .running ∧ s.pcInRange = true ∧ ∃ nnn, decodeWord s.fetchWord = .ok (.jp nnn) ∧ zextAddr nnn = s.pc

/-! ## Runs -/

/-- `t` is reached from `s` by some sequence of commands of the three agents, in any interleaving (R240). -/
def Reaches (s t : State) : Prop := ∃ (cs : List Command) (rs : List Reply), s.applyAll cs = .next (t, rs)

/-- `n` ticks (R920). -/
def State.ticks (s : State) : Nat → State
  | 0 => s
  | n + 1 => State.ticks s.tick.1 n

end Sys2Proof.Machine
end

