-- ==== Sys2Proof/Certificates/Slice0/Obligations.lean ====
section
/-!
DEFINITION. The statements about this model, for the provers; OBLIGATIONS.json lists them.
-/
open Sys2Proof Sys2Proof.Machine

/-! ## Encoding -/

/-- Words written out from the encodings of R309, at least one for each top nibble, decode to the instructions they stand for. A
sanity statement. -/
def Obligations.SpecWordsDecode : Prop :=
  decode [0x00, 0xE0] = .ok (.cls, []) ∧
  decode [0x12, 0x34] = .ok (.jp 0x234, []) ∧
  decode [0x2A, 0xBC] = .ok (.call 0xABC, []) ∧
  decode [0x3A, 0x5C] = .ok (.seImm 0xA 0x5C, []) ∧
  decode [0x42, 0x11] = .ok (.sneImm 0x2 0x11, []) ∧
  decode [0x51, 0x20] = .ok (.seReg 0x1 0x2, []) ∧
  decode [0x6A, 0x42] = .ok (.ldImm 0xA 0x42, []) ∧
  decode [0x73, 0x20] = .ok (.addImm 0x3 0x20, []) ∧
  decode [0x80, 0x14] = .ok (.addReg 0x0 0x1, []) ∧
  decode [0x8C, 0xDE] = .ok (.shl 0xC 0xD, []) ∧
  decode [0x91, 0x20] = .ok (.sneReg 0x1 0x2, []) ∧
  decode [0xA2, 0xF0] = .ok (.ldI 0x2F0, []) ∧
  decode [0xB3, 0x01] = .ok (.jpV0 0x301, []) ∧
  decode [0xC3, 0x0F] = .ok (.rnd 0x3 0x0F, []) ∧
  decode [0xD0, 0x12] = .ok (.drw 0x0 0x1 2, []) ∧
  decode [0xE5, 0x9E] = .ok (.skp 0x5, []) ∧
  decode [0xF2, 0x65] = .ok (.loadRegs 0x2, []) ∧
  decode [0x51, 0x21] = .error (.unknownOpcode 0x5121)

/-- Decoding the two bytes of a well-formed instruction, followed by anything, gives back the instruction and what followed. -/
def Obligations.DecodeOfEncodeGivesInstruction : Prop :=
  ∀ (i : Instr) (rest : List Byte), i.wellFormed = true →
    decode (highByte (encode i) :: lowByte (encode i) :: rest) = .ok (i, rest)

/-- What decodes is well-formed and encodes to the very bytes that were read: no bit of a word is dropped. -/
def Obligations.EncodeOfDecodeGivesBytes : Prop :=
  ∀ (hi lo : Byte) (rest rest' : List Byte) (i : Instr), decode (hi :: lo :: rest) = .ok (i, rest') →
    i.wellFormed = true ∧ rest' = rest ∧ highByte (encode i) = hi ∧ lowByte (encode i) = lo

/-- R309, R312: every word selects exactly one row of the opcode map, the row of the instruction it decodes to, or it selects
none and is rejected as unknown. -/
def Obligations.EveryWordSelectsItsRowOrIsUnknown : Prop :=
  ∀ w : Word,
    (∃ i, decodeWord w = .ok i ∧ ∀ r ∈ opcodeMap, r.selects w = true ↔ r = i.row) ∨
    decodeWord w = .error (.unknownOpcode w) ∧ ∀ r ∈ opcodeMap, r.selects w = false

/-! ## Reset -/

/-- R105, R116, R122, R126, R133, R142, R151: what reset leaves outside memory. -/
def Obligations.ResetLeavesRegistersZeroAndPcAtProgram : Prop :=
  (∀ x : RegIdx, State.reset.readV x = 0) ∧ State.reset.pc = 0x200 ∧ State.reset.i = 0 ∧ State.reset.dt = 0 ∧
  State.reset.st = 0 ∧ State.reset.sp = 0 ∧ (∀ k : Fin 16, State.reset.stack[k] = 0) ∧
  (∀ (px : Fin 64) (py : Fin 32), State.reset.pixel px py = false) ∧ State.reset.dirty = false ∧
  (∀ k : KeyIdx, State.reset.keys[k] = false) ∧ (∀ k : KeyIdx, State.reset.kprev[k] = false) ∧
  State.reset.status = .running

/-- R200, R203: what reset leaves in memory. The model's choice for the place and the bytes of the font table is the spec's D10
and G1 (notes/assumptions/3.md, 4.md): the glyphs of 0, 1, A and F are written out here. -/
def Obligations.ResetMemoryHoldsFontAndZeros : Prop :=
  (∀ d : Fin 16, State.reset.mem.readBytes (0x000 + 5 * d.val) 5 = (Params.fontData.drop (5 * d.val)).take 5) ∧
  State.reset.mem.readBytes 0x000 10 = [0xF0, 0x90, 0x90, 0x90, 0xF0, 0x20, 0x60, 0x20, 0x20, 0x70] ∧
  State.reset.mem.readBytes 0x032 5 = [0xF0, 0x90, 0xF0, 0x90, 0x90] ∧
  State.reset.mem.readBytes 0x04B 5 = [0xF0, 0x80, 0xF0, 0x80, 0x80] ∧
  ∀ a : Nat, 0x050 ≤ a → State.reset.readByte a = 0

/-- R1000: the command `reset` puts every piece of the spec's state in the construction state, from any state. The model's own
counter of random draws goes on (notes/assumptions/1.md). -/
def Obligations.ResetCommandGivesConstructionState : Prop :=
  ∀ s : State, ∃ t, s.apply .reset = .next (t, .nothing) ∧ Frame [.randomDraws] State.reset t ∧ t.mem = [] ∧ t.rndDraws = s.rndDraws

/-! ## The step -/

/-- R301, R313: a running machine whose two bytes at `pc` decode to `i` executes `i`. -/
def Obligations.StepExecutesDecodedInstruction : Prop :=
  ∀ (s : State) (i : Instr) (rest : List Byte), s.status = .running → 0x200 ≤ s.pc.toNat → s.pc.toNat ≤ 0xE9F →
    decode [s.readByte s.pc.toNat, s.readByte (s.pc.toNat + 1)] = .ok (i, rest) → step s = exec i s

/-- The word placed by `withFetchWord` is the one the next step runs (the host's interface; from any state). -/
def Obligations.PlacedWordRunsNext : Prop :=
  ∀ (s : State) (w : Nat) (i : Instr), s.mem.wf = true → decodeTableWord 16 w = some i →
    step (s.withFetchWord 16 w) = exec i (s.withFetchWord 16 w)

/-- R113: outside `[0x200, 0xE9F]` a running machine faults before any read, with no opcode. The check comes at the fetch, not at
the write: no instruction raises this fault, and `RET` takes any 16-bit value into `pc`. -/
def Obligations.PcOutOfRangeFaultsAtFetch : Prop :=
  (∀ s : State, s.status = .running → s.pc.toNat < 0x200 ∨ 0xE9F < s.pc.toNat →
    step s = .next { s with status := .faulted ⟨.programCounterOutOfRange, s.pc, none⟩ }) ∧
  (∀ (i : Instr) (s t : State) (r : FaultRecord), ¬ Faulted s → exec i s = .next t → t.status = .faulted r →
    r.cause ≠ .programCounterOutOfRange) ∧
  ∀ (a : Word) (s : State), ∃ t, exec .ret { s with stack := s.stack.set 0 a, sp := 1 } = .next t ∧ t.pc = a ∧
    t.status = s.status

/-- R903: every word of R310's list of unknown words raises `UnknownOpcode` with that word and changes nothing else; every other
word decodes to an instruction, which the step executes. -/
def Obligations.UnknownWordsFaultAndOthersExecute : Prop :=
  ∀ (s : State) (w : Word), s.status = .running → 0x200 ≤ s.pc.toNat → s.pc.toNat ≤ 0xE9F → s.readByte s.pc.toNat = highByte w →
    s.readByte (s.pc.toNat + 1) = lowByte w →
    (UnknownWord w → step s = .next { s with status := .faulted ⟨.unknownOpcode, s.pc, some w⟩ }) ∧
    (¬ UnknownWord w → ∃ i, decodeWord w = .ok i ∧ step s = exec i s)

/-- R908: `Faulted` is absorbing. A step changes nothing, every command but `reset` keeps the fault record, and `reset` runs the
machine again. -/
def Obligations.FaultedStateIsLeftOnlyByReset : Prop :=
  ∀ (s : State) (r : FaultRecord), s.status = .faulted r →
    step s = .next s ∧
    (∀ c : Command, c ≠ .reset → ∃ t reply, s.apply c = .next (t, reply) ∧ t.status = .faulted r) ∧
    ∃ t reply, s.apply .reset = .next (t, reply) ∧ t.status = .running

/-- R804: a poll takes the lowest key with a press edge, or waits on; it fetches nothing, and timers decay meanwhile. -/
def Obligations.PollTakesLowestPressEdge : Prop :=
  ∀ (s : State) (x : RegIdx), s.status = .awaitingKey x →
    ((∀ k : KeyIdx, ¬ (s.keys[k] = true ∧ s.kprev[k] = false)) → step s = .next { s with kprev := s.keys }) ∧
    (∀ k : KeyIdx, s.keys[k] = true → s.kprev[k] = false → (∀ j : KeyIdx, j < k → ¬ (s.keys[j] = true ∧ s.kprev[j] = false)) →
      ∃ t, step s = .next t ∧ (t.readV x).toNat = k.val ∧ t.kprev = s.keys ∧ t.status = .running ∧ t.pc = s.pc + 2 ∧
        RegsExcept [x] s t ∧ Frame [.regs, .keySnapshot, .status, .pc] s t) ∧
    s.tick.1.status = .awaitingKey x ∧ s.tick.1.dt.toNat = s.dt.toNat - 1

/-- From every state, reachable or not, a step answers a next state: the model never stops. -/
def Obligations.StepNeverStops : Prop := ∀ s : State, ∃ t, step s = .next t

/-- R901: whatever a step's fault, nothing changes but `status`, whose record holds the pc, the opcode that was fetched (none
where nothing was fetched) and the kind with its detail: the range of `pc`, the unknown word, or what the instruction raises. -/
def Obligations.EveryFaultIsPrecise : Prop :=
  ∀ (s t : State) (r : FaultRecord), ¬ Faulted s → step s = .next t → t.status = .faulted r →
    s.status = .running ∧ t = { s with status := .faulted r } ∧ r.pc = s.pc ∧
    if 0x200 ≤ s.pc.toNat ∧ s.pc.toNat ≤ 0xE9F then
      ∃ w : Word, w = s.readByte s.pc.toNat ++ s.readByte (s.pc.toNat + 1) ∧ r.opcode = some w ∧
        (UnknownWord w ∧ r.cause = .unknownOpcode ∨ ∃ i, decodeWord w = .ok i ∧ i.mayRaise r.cause = true)
    else r.opcode = none ∧ r.cause = .programCounterOutOfRange

/-- R900: each fault is raised only by the instructions its row names. -/
def Obligations.InstructionsRaiseOnlyTheirFaults : Prop :=
  ∀ (i : Instr) (s t : State) (r : FaultRecord), ¬ Faulted s → exec i s = .next t → t.status = .faulted r →
    i.mayRaise r.cause = true

/-! ## The invariant -/

/-- The invariant holds at reset. -/
def Obligations.ResetStateMeetsInvariant : Prop := Inv State.reset

/-- Every step keeps memory canonical and the interpreter region as reset left it. -/
def Obligations.StepKeepsInvariant : Prop := ∀ s t : State, Inv s → step s = .next t → Inv t

/-- Every command of every agent keeps the invariant, a ROM load of any bytes among them. -/
def Obligations.CommandsKeepInvariant : Prop :=
  ∀ (s t : State) (c : Command) (reply : Reply), Inv s → s.apply c = .next (t, reply) → Inv t

/-- In every state any interleaving of commands reaches from reset, memory is canonical and the font table reads as it was put
there (R204, R240). A corollary of `CommandsKeepInvariant`, the step lemma, for runs. It is about the values the model gives
`FONT_BASE`, `FONT_DATA` and `PROTECT_INTERP_REGION` (notes/assumptions/3.md, 4.md, 5.md). -/
def Obligations.ReachableStatesKeepFontTable : Prop :=
  ∀ t : State, Reaches State.reset t → t.mem.wf = true ∧ t.mem.readBytes Params.fontBase 80 = Params.fontData

/-- R204: only `reset` writes 0x000..0x1FF. From every state, no other command of any agent changes a byte of it. -/
def Obligations.OnlyResetWritesInterpreterRegion : Prop :=
  ∀ (s t : State) (c : Command) (reply : Reply), c ≠ .reset → s.apply c = .next (t, reply) →
    ∀ a : Nat, a ≤ 0x1FF → t.readByte a = s.readByte a

/-! ## Whole-machine rules -/

/-- The frame of all 34 instructions: nothing changes but what the spec's tables of writers let the instruction write, no
register but its destinations, no key, and no byte of memory but those R210 lets it store, `I .. I+2` by `FX33`, `I .. I+X` by
`FX55` and none by any other. An instruction that faults changes `status` only (R223, R901). -/
def Obligations.InstructionsWriteOnlyTheirParts : Prop :=
  ∀ (i : Instr) (s t : State), exec i s = .next t →
    Frame i.writes s t ∧ RegsExcept i.destRegs s t ∧ MemExcept s.i.toNat i.storeLen s t ∧
    (∀ x : RegIdx, i = .ldBcd x → MemExcept s.i.toNat 3 s t) ∧
    (∀ x : RegIdx, i = .storeRegs x → MemExcept s.i.toNat (x.val + 1) s t) ∧
    (¬ Faulted s → Faulted t → t = { s with status := t.status })

/-- R112, R500: how `pc` moves, for every instruction at a machine that is not faulted: it stays where a fault is taken and at the
entry of `FX0A`, goes to the target or the popped entry of a jump, call or return, and else advances by 2, or by 2 or 4. Which
of the two a skip takes is in the statement of each skip. -/
def Obligations.ProgramCounterAdvances : Prop :=
  ∀ (i : Instr) (s t : State), ¬ Faulted s → exec i s = .next t →
    (Faulted t → t.pc = s.pc) ∧
    (¬ Faulted t →
      (i.pcMove = .sequential → t.pc = s.pc + 2) ∧
      (i.pcMove = .skip → t.pc = s.pc + 2 ∨ t.pc = s.pc + 4) ∧
      (i.pcMove = .stays → t.pc = s.pc) ∧
      (i.pcMove = .absolute →
        (i = .ret ∧ ∃ k : Fin 16, s.sp.val = k.val + 1 ∧ t.pc = s.stack[k]) ∨
        (∃ nnn, (i = .jp nnn ∨ i = .call nnn) ∧ t.pc = zextAddr nnn) ∨
        ∃ nnn, i = .jpV0 nnn ∧ t.pc = indexedTarget nnn (s.readV 0)))

/-- No instruction reads `ST`, `dirty` or `Kprev`, and none but `CXNN` the counter of random draws: from a state that differs only
there (for `CXNN`, not in the counter), an instruction does the same. Each of these pieces it leaves as it finds it in both
states, or writes with the same value in both, so none of them flows into another. -/
def Obligations.InstructionsIgnoreUnreadState : Prop :=
  ∀ (i : Instr) (s t : State) (b : Byte) (d : Bool) (k : Vector Bool 16) (n : Nat),
    (n = s.rndDraws ∨ ∀ x nn, i ≠ .rnd x nn) → exec i s = .next t →
    ∃ u, exec i { s with st := b, dirty := d, kprev := k, rndDraws := n } = .next u ∧
      u = { t with st := u.st, dirty := u.dirty, kprev := u.kprev, rndDraws := u.rndDraws } ∧
      (t.st = s.st ∧ u.st = b ∨ u.st = t.st) ∧ (t.dirty = s.dirty ∧ u.dirty = d ∨ u.dirty = t.dirty) ∧
      (t.kprev = s.kprev ∧ u.kprev = k ∨ u.kprev = t.kprev) ∧
      (t.rndDraws = s.rndDraws ∧ u.rndDraws = n ∨ u.rndDraws = t.rndDraws)

/-- R941 (a), (b): in a quiescent state every step leaves all state unchanged. -/
def Obligations.QuiescentStateStaysUnchanged : Prop := ∀ s : State, Quiescent s → step s = .next s

/-- R243, R1032: two bytes stored by `FX55` right behind itself are the next instruction executed. -/
def Obligations.StoredInstructionRunsNext : Prop :=
  ∀ (x : RegIdx) (s t : State) (j : Instr), s.mem.wf = true → s.status = .running → 1 ≤ x.val → s.i = s.pc + 2 →
    0x200 ≤ s.i.toNat → s.i.toNat ≤ 0xE9F → j.wellFormed = true → s.readV 0 = highByte (encode j) → s.readV 1 = lowByte (encode j) →
    exec (.storeRegs x) s = .next t → step t = exec j t

/-! ## Control flow -/

/-- R502: `JP NNN`. -/
def Obligations.JumpGoesToTarget : Prop :=
  ∀ (nnn : Addr12) (s : State), encode (.jp nnn) &&& 0xF000#16 = 0x1000#16 ∧
    ∃ t, exec (.jp nnn) s = .next t ∧ t.pc.toNat = nnn.toNat ∧ Frame [.pc] s t ∧
      (s.status = .running → nnn.toNat < 0x200 ∨ 0xE9F < nnn.toNat →
        step t = .next { t with status := .faulted ⟨.programCounterOutOfRange, t.pc, none⟩ })

/-- R508: `JP V0, NNN`, a 16-bit sum. -/
def Obligations.IndexedJumpAddsV0 : Prop :=
  ∀ (nnn : Addr12) (s : State), encode (.jpV0 nnn) &&& 0xF000#16 = 0xB000#16 ∧
    ∃ t, exec (.jpV0 nnn) s = .next t ∧ t.pc.toNat = nnn.toNat + (s.readV 0).toNat ∧ Frame [.pc] s t ∧
      (s.status = .running → t.pc.toNat < 0x200 ∨ 0xE9F < t.pc.toNat →
        step t = .next { t with status := .faulted ⟨.programCounterOutOfRange, t.pc, none⟩ })

/-- R503: `CALL NNN` pushes `pc + 2`, or faults with a full stack. -/
def Obligations.CallPushesReturnAddress : Prop :=
  ∀ (nnn : Addr12) (s : State), encode (.call nnn) &&& 0xF000#16 = 0x2000#16 ∧
    (s.sp.val < 16 → ∃ t, exec (.call nnn) s = .next t ∧ t.sp.val = s.sp.val + 1 ∧
      (∀ k : Fin 16, t.stack[k] = if k.val = s.sp.val then s.pc + 2 else s.stack[k]) ∧ t.pc.toNat = nnn.toNat ∧
      Frame [.stack, .pc] s t) ∧
    (s.sp.val = 16 → FaultsWith (.call nnn) s (.stackFault .overflow))

/-- R501: `RET` pops into `pc`, or faults with an empty stack; the popped entry keeps its value. -/
def Obligations.ReturnPopsReturnAddress : Prop :=
  ∀ s : State, encode .ret = 0x00EE#16 ∧
    (∀ k : Fin 16, s.sp.val = k.val + 1 → ∃ t, exec .ret s = .next t ∧ t.sp.val = k.val ∧ t.pc = s.stack[k] ∧
      t.stack = s.stack ∧ Frame [.stack, .pc] s t) ∧
    (s.sp.val = 0 → FaultsWith .ret s (.stackFault .underflow))

/-- R509: a return that finds the stack as a call left it goes to the instruction after the call and restores `sp`, at any
nesting depth below 16. -/
def Obligations.ReturnComesBackAfterCall : Prop :=
  ∀ (nnn : Addr12) (s t u : State), s.sp.val < 16 → exec (.call nnn) s = .next t → u.stack = t.stack → u.sp = t.sp →
    ∃ w, exec .ret u = .next w ∧ w.pc = s.pc + 2 ∧ w.sp = s.sp ∧ Frame [.stack, .pc] u w

/-- R504, R505: the skips that compare with an immediate. -/
def Obligations.SkipsCompareWithImmediate : Prop :=
  ∀ (x : RegIdx) (nn : Byte) (s : State),
    encode (.seImm x nn) &&& 0xF000#16 = 0x3000#16 ∧ encode (.sneImm x nn) &&& 0xF000#16 = 0x4000#16 ∧
    (∃ t, exec (.seImm x nn) s = .next t ∧ (s.readV x = nn → t.pc = s.pc + 4) ∧ (s.readV x ≠ nn → t.pc = s.pc + 2) ∧
      Frame [.pc] s t) ∧
    ∃ t, exec (.sneImm x nn) s = .next t ∧ (s.readV x ≠ nn → t.pc = s.pc + 4) ∧ (s.readV x = nn → t.pc = s.pc + 2) ∧
      Frame [.pc] s t

/-- R506, R507: the skips that compare two registers; `5XYn` and `9XYn` with `n ≠ 0` are unknown. -/
def Obligations.SkipsCompareRegisters : Prop :=
  ∀ (x y : RegIdx) (s : State),
    encode (.seReg x y) &&& 0xF00F#16 = 0x5000#16 ∧ encode (.sneReg x y) &&& 0xF00F#16 = 0x9000#16 ∧
    (∀ n : BitVec 4, n ≠ 0x0#4 → decodeWord (formXYN 0x5#4 x y n) = .error (.unknownOpcode (formXYN 0x5#4 x y n)) ∧
      decodeWord (formXYN 0x9#4 x y n) = .error (.unknownOpcode (formXYN 0x9#4 x y n))) ∧
    (∃ t, exec (.seReg x y) s = .next t ∧ (s.readV x = s.readV y → t.pc = s.pc + 4) ∧
      (s.readV x ≠ s.readV y → t.pc = s.pc + 2) ∧ Frame [.pc] s t) ∧
    ∃ t, exec (.sneReg x y) s = .next t ∧ (s.readV x ≠ s.readV y → t.pc = s.pc + 4) ∧
      (s.readV x = s.readV y → t.pc = s.pc + 2) ∧ Frame [.pc] s t

/-! ## Register file and ALU -/

/-- R601, R602, R610: load immediate, add immediate, copy. `VF` is an ordinary destination, and no flag is written. -/
def Obligations.MovesAndAddImmediateWriteResult : Prop :=
  ∀ (x y : RegIdx) (nn : Byte) (s : State),
    encode (.ldImm x nn) &&& 0xF000#16 = 0x6000#16 ∧ encode (.addImm x nn) &&& 0xF000#16 = 0x7000#16 ∧
    encode (.ldReg x y) &&& 0xF00F#16 = 0x8000#16 ∧
    (∃ t, exec (.ldImm x nn) s = .next t ∧ t.readV x = nn ∧ t.pc = s.pc + 2 ∧ RegsExcept [x] s t ∧ Frame [.regs, .pc] s t) ∧
    (∃ t, exec (.addImm x nn) s = .next t ∧ (t.readV x).toNat = ((s.readV x).toNat + nn.toNat) % 256 ∧ t.pc = s.pc + 2 ∧
      RegsExcept [x] s t ∧ Frame [.regs, .pc] s t) ∧
    ∃ t, exec (.ldReg x y) s = .next t ∧ t.readV x = s.readV y ∧ t.pc = s.pc + 2 ∧ RegsExcept [x] s t ∧
      Frame [.regs, .pc] s t

/-- R611, R612, R613: OR, AND, XOR, bit by bit. `VF` is not written unless it is the destination. -/
def Obligations.LogicCombinesBitsWithoutFlag : Prop :=
  ∀ (x y : RegIdx) (s : State),
    encode (.orReg x y) &&& 0xF00F#16 = 0x8001#16 ∧ encode (.andReg x y) &&& 0xF00F#16 = 0x8002#16 ∧
    encode (.xorReg x y) &&& 0xF00F#16 = 0x8003#16 ∧
    (∃ t, exec (.orReg x y) s = .next t ∧
      (∀ k, (t.readV x).getLsbD k = ((s.readV x).getLsbD k || (s.readV y).getLsbD k)) ∧ t.pc = s.pc + 2 ∧
      RegsExcept [x] s t ∧ Frame [.regs, .pc] s t) ∧
    (∃ t, exec (.andReg x y) s = .next t ∧
      (∀ k, (t.readV x).getLsbD k = ((s.readV x).getLsbD k && (s.readV y).getLsbD k)) ∧ t.pc = s.pc + 2 ∧
      RegsExcept [x] s t ∧ Frame [.regs, .pc] s t) ∧
    ∃ t, exec (.xorReg x y) s = .next t ∧
      (∀ k, (t.readV x).getLsbD k = ((s.readV x).getLsbD k ^^ (s.readV y).getLsbD k)) ∧ t.pc = s.pc + 2 ∧
      RegsExcept [x] s t ∧ Frame [.regs, .pc] s t

/-- R614: add with carry into `VF`, which is written last. -/
def Obligations.AddSetsCarryInVF : Prop :=
  ∀ (x y : RegIdx) (s : State), encode (.addReg x y) &&& 0xF00F#16 = 0x8004#16 ∧
    ∃ t, exec (.addReg x y) s = .next t ∧
      (x ≠ VF → (t.readV x).toNat = ((s.readV x).toNat + (s.readV y).toNat) % 256) ∧
      (t.readV VF).toNat = (if (s.readV x).toNat + (s.readV y).toNat > 255 then 1 else 0) ∧ t.pc = s.pc + 2 ∧
      RegsExcept [x, VF] s t ∧ Frame [.regs, .pc] s t

/-- R615, R617: subtract and reverse subtract; `VF = 0` iff a borrow occurred, written last. -/
def Obligations.SubtractSetsNotBorrowInVF : Prop :=
  ∀ (x y : RegIdx) (s : State),
    encode (.subReg x y) &&& 0xF00F#16 = 0x8005#16 ∧ encode (.subn x y) &&& 0xF00F#16 = 0x8007#16 ∧
    (∃ t, exec (.subReg x y) s = .next t ∧
      (x ≠ VF → (t.readV x).toNat = ((s.readV x).toNat - (s.readV y).toNat : Int) % 256) ∧
      (t.readV VF).toNat = (if (s.readV y).toNat > (s.readV x).toNat then 0 else 1) ∧ t.pc = s.pc + 2 ∧
      RegsExcept [x, VF] s t ∧ Frame [.regs, .pc] s t) ∧
    ∃ t, exec (.subn x y) s = .next t ∧
      (x ≠ VF → (t.readV x).toNat = ((s.readV y).toNat - (s.readV x).toNat : Int) % 256) ∧
      (t.readV VF).toNat = (if (s.readV x).toNat > (s.readV y).toNat then 0 else 1) ∧ t.pc = s.pc + 2 ∧
      RegsExcept [x, VF] s t ∧ Frame [.regs, .pc] s t

/-- R616, R618: the shifts move `V[X]` by one bit and put the bit shifted out in `VF`, written last; `V[Y]` has no influence. -/
def Obligations.ShiftsPutLostBitInVF : Prop :=
  ∀ (x y : RegIdx) (s : State),
    encode (.shr x y) &&& 0xF00F#16 = 0x8006#16 ∧ encode (.shl x y) &&& 0xF00F#16 = 0x800E#16 ∧
    (∃ t, exec (.shr x y) s = .next t ∧ (x ≠ VF → (t.readV x).toNat = (s.readV x).toNat / 2) ∧
      (t.readV VF).toNat = (s.readV x).toNat % 2 ∧ t.pc = s.pc + 2 ∧ RegsExcept [x, VF] s t ∧ Frame [.regs, .pc] s t) ∧
    ∃ t, exec (.shl x y) s = .next t ∧ (x ≠ VF → (t.readV x).toNat = (s.readV x).toNat * 2 % 256) ∧
      (t.readV VF).toNat = (s.readV x).toNat / 128 ∧ t.pc = s.pc + 2 ∧ RegsExcept [x, VF] s t ∧ Frame [.regs, .pc] s t

/-- R640: `RND VX, NN` masks the free random byte, so no bit outside `NN` is ever set, and the draw is used up. -/
def Obligations.RandomByteIsMasked : Prop :=
  ∀ (x : RegIdx) (nn : Byte) (s : State), encode (.rnd x nn) &&& 0xF000#16 = 0xC000#16 ∧
    ∃ t, exec (.rnd x nn) s = .next t ∧
      (∀ k, (t.readV x).getLsbD k = ((Config.randomByte s.rndDraws).getLsbD k && nn.getLsbD k)) ∧ t.pc = s.pc + 2 ∧
      t.rndDraws = s.rndDraws + 1 ∧ RegsExcept [x] s t ∧ Frame [.regs, .pc, .randomDraws] s t

/-! ## Address register and memory transfers -/

/-- R700, R701: `LD I, NNN` and `ADD I, VX`, a 16-bit wrapping sum with no flag and no check. -/
def Obligations.IndexRegisterLoadsAndAdds : Prop :=
  ∀ (nnn : Addr12) (x : RegIdx) (s : State),
    encode (.ldI nnn) &&& 0xF000#16 = 0xA000#16 ∧ encode (.addI x) &&& 0xF0FF#16 = 0xF01E#16 ∧
    (∃ t, exec (.ldI nnn) s = .next t ∧ t.i.toNat = nnn.toNat ∧ t.pc = s.pc + 2 ∧ Frame [.index, .pc] s t) ∧
    ∃ t, exec (.addI x) s = .next t ∧ t.i.toNat = (s.i.toNat + (s.readV x).toNat) % 65536 ∧ t.pc = s.pc + 2 ∧
      Frame [.index, .pc] s t

/-- R702: `LD F, VX` points `I` at the glyph of a digit, or faults on a value above 0xF. -/
def Obligations.FontAddressOfDigit : Prop :=
  ∀ (x : RegIdx) (s : State), encode (.ldFont x) &&& 0xF0FF#16 = 0xF029#16 ∧
    ((s.readV x).toNat ≤ 0xF → ∃ t, exec (.ldFont x) s = .next t ∧
      t.i.toNat = Params.fontBase + 5 * (s.readV x).toNat ∧ t.pc = s.pc + 2 ∧ Frame [.index, .pc] s t) ∧
    (0xF < (s.readV x).toNat → FaultsWith (.ldFont x) s (.boundsFault (.fontDigit (s.readV x))))

/-- R703: `LD B, VX` stores the three decimal digits at `I`, `I+1`, `I+2`, or faults before any byte is written. The reads after
the store are those of a memory in canonical form, which every step keeps. -/
def Obligations.BcdStoresThreeDigits : Prop :=
  ∀ (x : RegIdx) (s : State), encode (.ldBcd x) &&& 0xF0FF#16 = 0xF033#16 ∧
    (0x200 ≤ s.i.toNat → s.i.toNat + 2 ≤ 0xFFF → ∃ t, exec (.ldBcd x) s = .next t ∧
      (s.mem.wf = true → (t.readByte s.i.toNat).toNat = (s.readV x).toNat / 100 ∧
        (t.readByte (s.i.toNat + 1)).toNat = (s.readV x).toNat / 10 % 10 ∧
        (t.readByte (s.i.toNat + 2)).toNat = (s.readV x).toNat % 10) ∧
      t.pc = s.pc + 2 ∧ MemExcept s.i.toNat 3 s t ∧ Frame [.memory, .pc] s t) ∧
    (0xFFF < s.i.toNat + 2 → FaultsWith (.ldBcd x) s (.boundsFault (.writeOutOfRange s.i 3))) ∧
    (s.i.toNat ≤ 0x1FF → FaultsWith (.ldBcd x) s (.boundsFault (.writeProtected s.i 3)))

/-- R704: `LD [I], VX` stores `V0..VX` at `I, …, I+X`, or faults before any byte is written. -/
def Obligations.StoreWritesRegistersToMemory : Prop :=
  ∀ (x : RegIdx) (s : State), encode (.storeRegs x) &&& 0xF0FF#16 = 0xF055#16 ∧
    (0x200 ≤ s.i.toNat → s.i.toNat + x.val ≤ 0xFFF → ∃ t, exec (.storeRegs x) s = .next t ∧
      (s.mem.wf = true → ∀ r : RegIdx, r ≤ x → t.readByte (s.i.toNat + r.val) = s.readV r) ∧
      t.pc = s.pc + 2 ∧ MemExcept s.i.toNat (x.val + 1) s t ∧ Frame [.memory, .pc] s t) ∧
    (0xFFF < s.i.toNat + x.val → FaultsWith (.storeRegs x) s (.boundsFault (.writeOutOfRange s.i (x.val + 1)))) ∧
    (s.i.toNat ≤ 0x1FF → FaultsWith (.storeRegs x) s (.boundsFault (.writeProtected s.i (x.val + 1))))

/-- R705: `LD VX, [I]` loads `V0..VX` from `I, …, I+X` in any region, or faults before any register is written. -/
def Obligations.LoadReadsRegistersFromMemory : Prop :=
  ∀ (x : RegIdx) (s : State), encode (.loadRegs x) &&& 0xF0FF#16 = 0xF065#16 ∧
    (s.i.toNat + x.val ≤ 0xFFF → ∃ t, exec (.loadRegs x) s = .next t ∧
      (∀ r : RegIdx, t.readV r = if r ≤ x then s.readByte (s.i.toNat + r.val) else s.readV r) ∧
      t.pc = s.pc + 2 ∧ Frame [.regs, .pc] s t) ∧
    (0xFFF < s.i.toNat + x.val → FaultsWith (.loadRegs x) s (.boundsFault (.readOutOfRange s.i (x.val + 1))))

/-! ## Keys and timers -/

/-- R800, R801: the key skips read the key level, or fault on an index above 0xF. -/
def Obligations.KeySkipsReadKeyState : Prop :=
  ∀ (x : RegIdx) (s : State),
    encode (.skp x) &&& 0xF0FF#16 = 0xE09E#16 ∧ encode (.sknp x) &&& 0xF0FF#16 = 0xE0A1#16 ∧
    (∀ k : KeyIdx, (s.readV x).toNat = k.val →
      (∃ t, exec (.skp x) s = .next t ∧ t.pc = s.pc + (if s.keys[k] = true then 4 else 2) ∧ Frame [.pc] s t) ∧
      ∃ t, exec (.sknp x) s = .next t ∧ t.pc = s.pc + (if s.keys[k] = false then 4 else 2) ∧ Frame [.pc] s t) ∧
    (0xF < (s.readV x).toNat → FaultsWith (.skp x) s (.boundsFault (.keyIndex (s.readV x))) ∧
      FaultsWith (.sknp x) s (.boundsFault (.keyIndex (s.readV x))))

/-- R802, R805: reading and setting the delay timer. -/
def Obligations.DelayTimerMoves : Prop :=
  ∀ (x : RegIdx) (s : State),
    encode (.ldFromDT x) &&& 0xF0FF#16 = 0xF007#16 ∧ encode (.ldToDT x) &&& 0xF0FF#16 = 0xF015#16 ∧
    (∃ t, exec (.ldFromDT x) s = .next t ∧ t.readV x = s.dt ∧ t.pc = s.pc + 2 ∧ RegsExcept [x] s t ∧
      Frame [.regs, .pc] s t) ∧
    ∃ t, exec (.ldToDT x) s = .next t ∧ t.dt = s.readV x ∧ t.pc = s.pc + 2 ∧ Frame [.delayTimer, .pc] s t

/-- R806: setting the sound timer; only a later tick reports the edge, and it does so exactly when the timer was set to 1. -/
def Obligations.SoundTimerIsSet : Prop :=
  ∀ (x : RegIdx) (s : State), encode (.ldToST x) &&& 0xF0FF#16 = 0xF018#16 ∧
    ∃ t, exec (.ldToST x) s = .next t ∧ t.st = s.readV x ∧ t.pc = s.pc + 2 ∧ Frame [.soundTimer, .pc] s t ∧
      (¬ Faulted s → (t.tick.2 = true ↔ s.readV x = 1))

/-- R803: `LD VX, K` snapshots the keys and waits, `pc` unmoved; a key already held does not end the wait. -/
def Obligations.KeyWaitSnapshotsKeys : Prop :=
  ∀ (x : RegIdx) (s : State), encode (.ldKey x) &&& 0xF0FF#16 = 0xF00A#16 ∧
    ∃ t, exec (.ldKey x) s = .next t ∧ t.kprev = s.keys ∧ t.status = .awaitingKey x ∧ Frame [.keySnapshot, .status] s t ∧
      step t = .next t

/-! ## Display -/

/-- R401: `CLS` clears every pixel and sets `dirty`. -/
def Obligations.ClearScreenClearsEveryPixel : Prop :=
  ∀ s : State, encode .cls = 0x00E0#16 ∧
    ∃ t, exec .cls s = .next t ∧ (∀ (px : Fin 64) (py : Fin 32), t.pixel px py = false) ∧ t.dirty = true ∧ t.pc = s.pc + 2 ∧
      Frame [.screen, .dirty, .pc] s t

/-- R402, R403: `DXYN` flips exactly the pixels the sprite's set bits fall on, coordinates wrapping; `VF` is 1 iff some pixel
went from set to unset; `dirty` is set; or it faults before any change when the sprite passes 0xFFF. That bit 7 is the leftmost pixel the spec takes from
general knowledge (its D14; notes/assumptions/17.md), and `wrap` is the value of a parameter (notes/assumptions/19.md). -/
def Obligations.DrawXorsSpriteAndReportsCollision : Prop :=
  ∀ (x y : RegIdx) (n : Nat) (s : State), n ≤ 15 →
    encode (.drw x y n) &&& 0xF000#16 = 0xD000#16 ∧
    (SpriteReadable s n → ∃ t, exec (.drw x y n) s = .next t ∧
      (∀ (px : Fin 64) (py : Fin 32), t.pixel px py ≠ s.pixel px py ↔ SpriteHits s x y n px py) ∧
      ((t.readV VF = 1 ∧ ∃ (px : Fin 64) (py : Fin 32), s.pixel px py = true ∧ t.pixel px py = false) ∨
        (t.readV VF = 0 ∧ ¬ ∃ (px : Fin 64) (py : Fin 32), s.pixel px py = true ∧ t.pixel px py = false)) ∧
      t.dirty = true ∧ t.pc = s.pc + 2 ∧ RegsExcept [VF] s t ∧ Frame [.regs, .screen, .dirty, .pc] s t) ∧
    (¬ SpriteReadable s n → FaultsWith (.drw x y n) s (.boundsFault (.readOutOfRange s.i n)))

/-- R404: under the optional edge policy `clip` the same drawing discards what leaves the screen, and is else as `DXYN` is. `clip`
is no instruction of this machine (notes/assumptions/19.md); that its start coordinates wrap is the spec's own choice (its D15), and
that bit 7 is the leftmost pixel is general knowledge (notes/assumptions/17.md). -/
def Obligations.ClippedDrawDiscardsOffscreenPixels : Prop :=
  ∀ (x y : RegIdx) (n : Nat) (s : State), n ≤ 15 →
    (SpriteReadable s n → ∃ t, execDrwUnder .clip x y n s = .next t ∧
      (∀ (px : Fin 64) (py : Fin 32), t.pixel px py ≠ s.pixel px py ↔ SpriteHitsClipped s x y n px py) ∧
      ((t.readV VF = 1 ∧ ∃ (px : Fin 64) (py : Fin 32), SpriteHitsClipped s x y n px py ∧ s.pixel px py = true) ∨
        (t.readV VF = 0 ∧ ¬ ∃ (px : Fin 64) (py : Fin 32), SpriteHitsClipped s x y n px py ∧ s.pixel px py = true)) ∧
      t.dirty = true ∧ t.pc = s.pc + 2 ∧ RegsExcept [VF] s t ∧ Frame [.regs, .screen, .dirty, .pc] s t) ∧
    (¬ SpriteReadable s n → execDrwUnder .clip x y n s =
      .next { s with status := .faulted ⟨.boundsFault (.readOutOfRange s.i n), s.pc, some (encode (.drw x y n))⟩ })

/-- R405, its first half: drawing the same sprite twice at the same place restores every pixel. The second draw reports a
collision exactly when the first one set some pixel: R402, where R405's literal sentence says more (notes/assumptions/8.md). -/
def Obligations.DrawingTwiceRestoresScreen : Prop :=
  ∀ (x y : RegIdx) (n : Nat) (s t u : State), n ≤ 15 → SpriteReadable s n → exec (.drw x y n) s = .next t →
    u.fb = t.fb → (∀ a : Nat, u.readByte a = s.readByte a) → u.i = s.i → u.readV x = s.readV x → u.readV y = s.readV y →
    ∃ w, exec (.drw x y n) u = .next w ∧ (∀ (px : Fin 64) (py : Fin 32), w.pixel px py = s.pixel px py) ∧
      (w.readV VF = 1 ↔ ∃ (px : Fin 64) (py : Fin 32), s.pixel px py = false ∧ t.pixel px py = true)

/-- R405, its second half read literally: the second draw of a sprite with any 1 bit on the screen reports a collision. It fails
where the first draw only cleared pixels (notes/assumptions/8.md). -/
def Obligations.SecondDrawAlwaysCollides : Prop :=
  ∀ (x y : RegIdx) (n : Nat) (s t u w : State), n ≤ 15 → SpriteReadable s n → exec (.drw x y n) s = .next t →
    u.fb = t.fb → (∀ a : Nat, u.readByte a = s.readByte a) → u.i = s.i → u.readV x = s.readV x → u.readV y = s.readV y →
    (∃ (px : Fin 64) (py : Fin 32), SpriteHits s x y n px py) → exec (.drw x y n) u = .next w → w.readV VF = 1

/-! ## The timer-decay engine and the host -/

/-- R920: a tick decays both timers by one, not below 0, reports the edge when `ST` goes from 1 to 0, and does nothing to a
faulted machine. -/
def Obligations.TickDecaysBothTimers : Prop :=
  ∀ s : State, ∃ (t : State) (edge : Bool), s.apply .tick = .next (t, .soundEdge edge) ∧
    (Faulted s → t = s ∧ edge = false) ∧
    (¬ Faulted s → t.dt.toNat = s.dt.toNat - 1 ∧ t.st.toNat = s.st.toNat - 1 ∧ (edge = true ↔ s.st.toNat = 1) ∧
      Frame [.delayTimer, .soundTimer] s t)

/-- R923: a delay timer set to N by `FX15` is 0 after N ticks, not before, and stays 0; ticks change nothing but the timers, and
nothing at all when the machine is faulted. -/
def Obligations.DelayTimerReachesZeroAfterItsTicks : Prop :=
  ∀ (x : RegIdx) (s t : State) (m : Nat), exec (.ldToDT x) s = .next t →
    (¬ Faulted s → ((t.ticks m).dt = 0 ↔ (s.readV x).toNat ≤ m)) ∧ Frame [.delayTimer, .soundTimer] t (t.ticks m) ∧
    (Faulted s → t.ticks m = t)

/-- R1010 to R1013, R906: a ROM of at most 3232 bytes replaces the program region and changes nothing else; a longer one is
refused and changes nothing. -/
def Obligations.RomLoadFillsProgramRegionOrIsRefused : Prop :=
  ∀ (s : State) (bytes : List Byte),
    (bytes.length ≤ 3232 → ∃ t, s.apply (.loadRom bytes) = .next (t, .loaded .ok) ∧
      (s.mem.wf = true → (∀ (k : Nat) (h : k < bytes.length), t.readByte (0x200 + k) = bytes[k]) ∧
        ∀ a : Nat, 0x200 + bytes.length ≤ a → a ≤ 0xE9F → t.readByte a = 0) ∧
      (∀ a : Nat, a < 0x200 ∨ 0xE9F < a → t.readByte a = s.readByte a) ∧ Frame [.memory] s t) ∧
    (3232 < bytes.length → s.apply (.loadRom bytes) = .next (s, .loaded (.romTooLarge bytes.length 3232)))

/-- R163, R164: `set_key` writes one key, `clear_dirty` the dirty flag, and nothing else. -/
def Obligations.HostWritesKeyOrDirtyOnly : Prop :=
  ∀ (s : State) (k : KeyIdx) (pressed : Bool),
    (∃ t, s.apply (.setKey k pressed) = .next (t, .nothing) ∧
      (∀ j : KeyIdx, t.keys[j] = if j = k then pressed else s.keys[j]) ∧ Frame [.keys] s t) ∧
    ∃ t, s.apply .clearDirty = .next (t, .nothing) ∧ t.dirty = false ∧ Frame [.dirty] s t
end

