-- ==== Sys2Proof/Laws/Decode.lean ====
section
/-!
SUPPORT. The small lemmas of the fields and forms of Decode.lean: what each field of each encoding form is, and that a word is
its two bytes, or its fields, put together.
-/
namespace Sys2Proof

@[simp] theorem regOfNibble_nibbleOfReg (x : RegIdx) : regOfNibble (nibbleOfReg x) = x := by
  apply Fin.ext
  simp only [regOfNibble, nibbleOfReg, BitVec.toNat_ofNat]
  exact Nat.mod_eq_of_lt x.isLt

@[simp] theorem nibbleOfReg_regOfNibble (b : BitVec 4) : nibbleOfReg (regOfNibble b) = b := by
  simp [regOfNibble, nibbleOfReg]

theorem toNat_formXNN (t : BitVec 4) (x : RegIdx) (nn : Byte) :
    (formXNN t x nn).toNat = t.toNat * 4096 + x.val * 256 + nn.toNat := by
  have hx := x.isLt
  have h := nn.isLt
  simp only [formXNN, nibbleOfReg, BitVec.toNat_append, BitVec.toNat_ofNat, Nat.shiftLeft_eq]
  rw [← Nat.shiftLeft_eq, ← Nat.shiftLeft_eq, Nat.mod_eq_of_lt (show x.val < 2 ^ 4 from hx),
    ← Nat.shiftLeft_add_eq_or_of_lt (show x.val < 2 ^ 4 from hx), ← Nat.shiftLeft_add_eq_or_of_lt h]
  simp only [Nat.shiftLeft_eq]
  omega

theorem toNat_formXYN (t : BitVec 4) (x y : RegIdx) (n : BitVec 4) :
    (formXYN t x y n).toNat = t.toNat * 4096 + x.val * 256 + y.val * 16 + n.toNat := by
  have hx := x.isLt
  have hy := y.isLt
  have h := n.isLt
  simp only [formXYN, nibbleOfReg, BitVec.toNat_append, BitVec.toNat_ofNat]
  rw [Nat.mod_eq_of_lt (show x.val < 2 ^ 4 from hx), Nat.mod_eq_of_lt (show y.val < 2 ^ 4 from hy),
    ← Nat.shiftLeft_add_eq_or_of_lt (show x.val < 2 ^ 4 from hx), ← Nat.shiftLeft_add_eq_or_of_lt (show y.val < 2 ^ 4 from hy),
    ← Nat.shiftLeft_add_eq_or_of_lt h]
  simp only [Nat.shiftLeft_eq]
  omega

theorem toNat_formNNN (t : BitVec 4) (nnn : Addr12) : (formNNN t nnn).toNat = t.toNat * 4096 + nnn.toNat := by
  simp only [formNNN, BitVec.toNat_append]
  rw [← Nat.shiftLeft_add_eq_or_of_lt nnn.isLt]
  simp only [Nat.shiftLeft_eq]

theorem toNat_composeWord (hi lo : Byte) : (composeWord hi lo).toNat = hi.toNat * 256 + lo.toNat := by
  simp only [composeWord, BitVec.toNat_append]
  rw [← Nat.shiftLeft_add_eq_or_of_lt lo.isLt]
  simp only [Nat.shiftLeft_eq]

theorem toNat_fieldT (w : Word) : (fieldT w).toNat = w.toNat / 4096 := by
  have h := w.isLt
  simp only [fieldT, BitVec.extractLsb'_toNat, Nat.shiftRight_eq_div_pow]
  omega

theorem toNat_fieldX (w : Word) : (fieldX w).toNat = w.toNat / 256 % 16 := by
  simp only [fieldX, BitVec.extractLsb'_toNat, Nat.shiftRight_eq_div_pow]

theorem toNat_fieldY (w : Word) : (fieldY w).toNat = w.toNat / 16 % 16 := by
  simp only [fieldY, BitVec.extractLsb'_toNat, Nat.shiftRight_eq_div_pow]

theorem toNat_fieldN (w : Word) : (fieldN w).toNat = w.toNat % 16 := by
  simp only [fieldN, BitVec.extractLsb'_toNat, Nat.shiftRight_eq_div_pow]
  omega

theorem toNat_fieldNN (w : Word) : (fieldNN w).toNat = w.toNat % 256 := by
  simp only [fieldNN, BitVec.extractLsb'_toNat, Nat.shiftRight_eq_div_pow]
  omega

theorem toNat_fieldNNN (w : Word) : (fieldNNN w).toNat = w.toNat % 4096 := by
  simp only [fieldNNN, BitVec.extractLsb'_toNat, Nat.shiftRight_eq_div_pow]
  omega

/-! ## The fields of each form -/

@[simp] theorem fieldT_formXNN (t : BitVec 4) (x : RegIdx) (nn : Byte) : fieldT (formXNN t x nn) = t := by
  apply BitVec.eq_of_toNat_eq
  have := nn.isLt
  have := x.isLt
  rw [toNat_fieldT, toNat_formXNN]
  omega

@[simp] theorem fieldX_formXNN (t : BitVec 4) (x : RegIdx) (nn : Byte) : regOfNibble (fieldX (formXNN t x nn)) = x := by
  apply Fin.ext
  have := nn.isLt
  have := x.isLt
  simp only [regOfNibble]
  rw [toNat_fieldX, toNat_formXNN]
  omega

@[simp] theorem fieldNN_formXNN (t : BitVec 4) (x : RegIdx) (nn : Byte) : fieldNN (formXNN t x nn) = nn := by
  apply BitVec.eq_of_toNat_eq
  have := nn.isLt
  rw [toNat_fieldNN, toNat_formXNN]
  omega

@[simp] theorem fieldT_formXYN (t : BitVec 4) (x y : RegIdx) (n : BitVec 4) : fieldT (formXYN t x y n) = t := by
  apply BitVec.eq_of_toNat_eq
  have := n.isLt
  have := x.isLt
  have := y.isLt
  rw [toNat_fieldT, toNat_formXYN]
  omega

@[simp] theorem fieldX_formXYN (t : BitVec 4) (x y : RegIdx) (n : BitVec 4) :
    regOfNibble (fieldX (formXYN t x y n)) = x := by
  apply Fin.ext
  have := n.isLt
  have := x.isLt
  have := y.isLt
  simp only [regOfNibble]
  rw [toNat_fieldX, toNat_formXYN]
  omega

@[simp] theorem fieldY_formXYN (t : BitVec 4) (x y : RegIdx) (n : BitVec 4) :
    regOfNibble (fieldY (formXYN t x y n)) = y := by
  apply Fin.ext
  have := n.isLt
  have := y.isLt
  simp only [regOfNibble]
  rw [toNat_fieldY, toNat_formXYN]
  omega

@[simp] theorem fieldN_formXYN (t : BitVec 4) (x y : RegIdx) (n : BitVec 4) : fieldN (formXYN t x y n) = n := by
  apply BitVec.eq_of_toNat_eq
  have := n.isLt
  rw [toNat_fieldN, toNat_formXYN]
  omega

@[simp] theorem fieldT_formNNN (t : BitVec 4) (nnn : Addr12) : fieldT (formNNN t nnn) = t := by
  apply BitVec.eq_of_toNat_eq
  have := nnn.isLt
  rw [toNat_fieldT, toNat_formNNN]
  omega

@[simp] theorem fieldNNN_formNNN (t : BitVec 4) (nnn : Addr12) : fieldNNN (formNNN t nnn) = nnn := by
  apply BitVec.eq_of_toNat_eq
  have := nnn.isLt
  rw [toNat_fieldNNN, toNat_formNNN]
  omega

/-! ## A word is its parts -/

@[simp] theorem composeWord_bytes (w : Word) : composeWord (highByte w) (lowByte w) = w := by
  apply BitVec.eq_of_toNat_eq
  have := w.isLt
  rw [toNat_composeWord]
  simp only [highByte, lowByte, BitVec.extractLsb'_toNat, Nat.shiftRight_eq_div_pow]
  omega

@[simp] theorem highByte_composeWord (hi lo : Byte) : highByte (composeWord hi lo) = hi := by
  apply BitVec.eq_of_toNat_eq
  have := lo.isLt
  have := hi.isLt
  simp only [highByte, BitVec.extractLsb'_toNat, toNat_composeWord, Nat.shiftRight_eq_div_pow]
  omega

@[simp] theorem lowByte_composeWord (hi lo : Byte) : lowByte (composeWord hi lo) = lo := by
  apply BitVec.eq_of_toNat_eq
  have := lo.isLt
  simp only [lowByte, BitVec.extractLsb'_toNat, toNat_composeWord, Nat.shiftRight_eq_div_pow]
  omega

/-- A word is its family, its `X` and its low byte. -/
theorem eq_formXNN (w : Word) : w = formXNN (fieldT w) (regOfNibble (fieldX w)) (fieldNN w) := by
  apply BitVec.eq_of_toNat_eq
  have := w.isLt
  rw [toNat_formXNN, toNat_fieldT, toNat_fieldNN]
  simp only [regOfNibble]
  rw [toNat_fieldX]
  omega

/-- A word is its four nibbles. -/
theorem eq_formXYN (w : Word) :
    w = formXYN (fieldT w) (regOfNibble (fieldX w)) (regOfNibble (fieldY w)) (fieldN w) := by
  apply BitVec.eq_of_toNat_eq
  have := w.isLt
  rw [toNat_formXYN, toNat_fieldT, toNat_fieldN]
  simp only [regOfNibble]
  rw [toNat_fieldX, toNat_fieldY]
  omega

/-- A word is its family and its 12-bit address. -/
theorem eq_formNNN (w : Word) : w = formNNN (fieldT w) (fieldNNN w) := by
  apply BitVec.eq_of_toNat_eq
  have := w.isLt
  rw [toNat_formNNN, toNat_fieldT, toNat_fieldNNN]
  omega

/-- The decoder on two bytes and more is the decoder of their word. -/
theorem decode_two (hi lo : Byte) (rest : List Byte) :
    decode (hi :: lo :: rest) =
      match decodeWord (composeWord hi lo) with
      | .ok i => .ok (i, rest)
      | .error r => .error r := rfl

/-! ## The masks of the opcode map, applied to each form -/

theorem formNNN_mask_family (t : BitVec 4) (nnn : Addr12) : formNNN t nnn &&& 0xF000#16 = t ++ 0x000#12 := by
  rw [formNNN, show (0xF000#16 : Word) = 0xF#4 ++ 0x000#12 from rfl, BitVec.and_append]
  simp [show t &&& 0xF#4 = t from BitVec.and_allOnes]

theorem append_zeros_byte : ∀ t : BitVec 4, t ++ 0x0#4 ++ 0x00#8 = t ++ 0x000#12 := by decide

theorem append_zeros_nibbles : ∀ t : BitVec 4, t ++ 0x0#4 ++ 0x0#4 ++ 0x0#4 = t ++ 0x000#12 := by decide

theorem formXNN_mask_family (t : BitVec 4) (x : RegIdx) (nn : Byte) : formXNN t x nn &&& 0xF000#16 = t ++ 0x000#12 := by
  rw [formXNN, show (0xF000#16 : Word) = (0xF#4 ++ 0x0#4) ++ 0x00#8 from rfl, BitVec.and_append, BitVec.and_append,
    show t &&& 0xF#4 = t from BitVec.and_allOnes]
  simp only [BitVec.and_zero]
  exact append_zeros_byte t

theorem formXYN_mask_family (t : BitVec 4) (x y : RegIdx) (n : BitVec 4) :
    formXYN t x y n &&& 0xF000#16 = t ++ 0x000#12 := by
  rw [formXYN, show (0xF000#16 : Word) = ((0xF#4 ++ 0x0#4) ++ 0x0#4) ++ 0x0#4 from rfl, BitVec.and_append, BitVec.and_append,
    BitVec.and_append, show t &&& 0xF#4 = t from BitVec.and_allOnes]
  simp only [BitVec.and_zero]
  exact append_zeros_nibbles t

theorem formXNN_mask_low (t : BitVec 4) (x : RegIdx) (nn : Byte) :
    formXNN t x nn &&& 0xF0FF#16 = t ++ 0x0#4 ++ nn := by
  rw [formXNN, show (0xF0FF#16 : Word) = (0xF#4 ++ 0x0#4) ++ 0xFF#8 from rfl, BitVec.and_append, BitVec.and_append,
    show t &&& 0xF#4 = t from BitVec.and_allOnes, show nn &&& 0xFF#8 = nn from BitVec.and_allOnes]
  simp only [BitVec.and_zero]

theorem formXYN_mask_nibble (t : BitVec 4) (x y : RegIdx) (n : BitVec 4) :
    formXYN t x y n &&& 0xF00F#16 = t ++ 0x0#4 ++ 0x0#4 ++ n := by
  rw [formXYN, show (0xF00F#16 : Word) = ((0xF#4 ++ 0x0#4) ++ 0x0#4) ++ 0xF#4 from rfl, BitVec.and_append, BitVec.and_append,
    BitVec.and_append, show t &&& 0xF#4 = t from BitVec.and_allOnes, show n &&& 0xF#4 = n from BitVec.and_allOnes]
  simp only [BitVec.and_zero]

end Sys2Proof
end

