-- ==== Sys2Proof/Laws/State.lean ====
section
/-!
SUPPORT. One lemma per field per update of State, so that no later proof unfolds a record update, and the same for the
operations built on them: what each reads and what it leaves.
-/
namespace Sys2Proof.Machine

/-! ### setPc -/

@[simp] theorem State.setPc_v (s : State) (a : Word) : (s.setPc a).v = s.v := rfl
@[simp] theorem State.setPc_i (s : State) (a : Word) : (s.setPc a).i = s.i := rfl
@[simp] theorem State.setPc_pc (s : State) (a : Word) : (s.setPc a).pc = a := rfl
@[simp] theorem State.setPc_stack (s : State) (a : Word) : (s.setPc a).stack = s.stack := rfl
@[simp] theorem State.setPc_sp (s : State) (a : Word) : (s.setPc a).sp = s.sp := rfl
@[simp] theorem State.setPc_dt (s : State) (a : Word) : (s.setPc a).dt = s.dt := rfl
@[simp] theorem State.setPc_st (s : State) (a : Word) : (s.setPc a).st = s.st := rfl
@[simp] theorem State.setPc_mem (s : State) (a : Word) : (s.setPc a).mem = s.mem := rfl
@[simp] theorem State.setPc_fb (s : State) (a : Word) : (s.setPc a).fb = s.fb := rfl
@[simp] theorem State.setPc_dirty (s : State) (a : Word) : (s.setPc a).dirty = s.dirty := rfl
@[simp] theorem State.setPc_keys (s : State) (a : Word) : (s.setPc a).keys = s.keys := rfl
@[simp] theorem State.setPc_kprev (s : State) (a : Word) : (s.setPc a).kprev = s.kprev := rfl
@[simp] theorem State.setPc_status (s : State) (a : Word) : (s.setPc a).status = s.status := rfl
@[simp] theorem State.setPc_rndDraws (s : State) (a : Word) : (s.setPc a).rndDraws = s.rndDraws := rfl

/-! ### setI -/

@[simp] theorem State.setI_v (s : State) (a : Word) : (s.setI a).v = s.v := rfl
@[simp] theorem State.setI_i (s : State) (a : Word) : (s.setI a).i = a := rfl
@[simp] theorem State.setI_pc (s : State) (a : Word) : (s.setI a).pc = s.pc := rfl
@[simp] theorem State.setI_stack (s : State) (a : Word) : (s.setI a).stack = s.stack := rfl
@[simp] theorem State.setI_sp (s : State) (a : Word) : (s.setI a).sp = s.sp := rfl
@[simp] theorem State.setI_dt (s : State) (a : Word) : (s.setI a).dt = s.dt := rfl
@[simp] theorem State.setI_st (s : State) (a : Word) : (s.setI a).st = s.st := rfl
@[simp] theorem State.setI_mem (s : State) (a : Word) : (s.setI a).mem = s.mem := rfl
@[simp] theorem State.setI_fb (s : State) (a : Word) : (s.setI a).fb = s.fb := rfl
@[simp] theorem State.setI_dirty (s : State) (a : Word) : (s.setI a).dirty = s.dirty := rfl
@[simp] theorem State.setI_keys (s : State) (a : Word) : (s.setI a).keys = s.keys := rfl
@[simp] theorem State.setI_kprev (s : State) (a : Word) : (s.setI a).kprev = s.kprev := rfl
@[simp] theorem State.setI_status (s : State) (a : Word) : (s.setI a).status = s.status := rfl
@[simp] theorem State.setI_rndDraws (s : State) (a : Word) : (s.setI a).rndDraws = s.rndDraws := rfl

/-! ### setRegs -/

@[simp] theorem State.setRegs_v (s : State) (r : Vector Byte 16) : (s.setRegs r).v = r := rfl
@[simp] theorem State.setRegs_i (s : State) (r : Vector Byte 16) : (s.setRegs r).i = s.i := rfl
@[simp] theorem State.setRegs_pc (s : State) (r : Vector Byte 16) : (s.setRegs r).pc = s.pc := rfl
@[simp] theorem State.setRegs_stack (s : State) (r : Vector Byte 16) : (s.setRegs r).stack = s.stack := rfl
@[simp] theorem State.setRegs_sp (s : State) (r : Vector Byte 16) : (s.setRegs r).sp = s.sp := rfl
@[simp] theorem State.setRegs_dt (s : State) (r : Vector Byte 16) : (s.setRegs r).dt = s.dt := rfl
@[simp] theorem State.setRegs_st (s : State) (r : Vector Byte 16) : (s.setRegs r).st = s.st := rfl
@[simp] theorem State.setRegs_mem (s : State) (r : Vector Byte 16) : (s.setRegs r).mem = s.mem := rfl
@[simp] theorem State.setRegs_fb (s : State) (r : Vector Byte 16) : (s.setRegs r).fb = s.fb := rfl
@[simp] theorem State.setRegs_dirty (s : State) (r : Vector Byte 16) : (s.setRegs r).dirty = s.dirty := rfl
@[simp] theorem State.setRegs_keys (s : State) (r : Vector Byte 16) : (s.setRegs r).keys = s.keys := rfl
@[simp] theorem State.setRegs_kprev (s : State) (r : Vector Byte 16) : (s.setRegs r).kprev = s.kprev := rfl
@[simp] theorem State.setRegs_status (s : State) (r : Vector Byte 16) : (s.setRegs r).status = s.status := rfl
@[simp] theorem State.setRegs_rndDraws (s : State) (r : Vector Byte 16) : (s.setRegs r).rndDraws = s.rndDraws := rfl

/-! ### setDT -/

@[simp] theorem State.setDT_v (s : State) (b : Byte) : (s.setDT b).v = s.v := rfl
@[simp] theorem State.setDT_i (s : State) (b : Byte) : (s.setDT b).i = s.i := rfl
@[simp] theorem State.setDT_pc (s : State) (b : Byte) : (s.setDT b).pc = s.pc := rfl
@[simp] theorem State.setDT_stack (s : State) (b : Byte) : (s.setDT b).stack = s.stack := rfl
@[simp] theorem State.setDT_sp (s : State) (b : Byte) : (s.setDT b).sp = s.sp := rfl
@[simp] theorem State.setDT_dt (s : State) (b : Byte) : (s.setDT b).dt = b := rfl
@[simp] theorem State.setDT_st (s : State) (b : Byte) : (s.setDT b).st = s.st := rfl
@[simp] theorem State.setDT_mem (s : State) (b : Byte) : (s.setDT b).mem = s.mem := rfl
@[simp] theorem State.setDT_fb (s : State) (b : Byte) : (s.setDT b).fb = s.fb := rfl
@[simp] theorem State.setDT_dirty (s : State) (b : Byte) : (s.setDT b).dirty = s.dirty := rfl
@[simp] theorem State.setDT_keys (s : State) (b : Byte) : (s.setDT b).keys = s.keys := rfl
@[simp] theorem State.setDT_kprev (s : State) (b : Byte) : (s.setDT b).kprev = s.kprev := rfl
@[simp] theorem State.setDT_status (s : State) (b : Byte) : (s.setDT b).status = s.status := rfl
@[simp] theorem State.setDT_rndDraws (s : State) (b : Byte) : (s.setDT b).rndDraws = s.rndDraws := rfl

/-! ### setST -/

@[simp] theorem State.setST_v (s : State) (b : Byte) : (s.setST b).v = s.v := rfl
@[simp] theorem State.setST_i (s : State) (b : Byte) : (s.setST b).i = s.i := rfl
@[simp] theorem State.setST_pc (s : State) (b : Byte) : (s.setST b).pc = s.pc := rfl
@[simp] theorem State.setST_stack (s : State) (b : Byte) : (s.setST b).stack = s.stack := rfl
@[simp] theorem State.setST_sp (s : State) (b : Byte) : (s.setST b).sp = s.sp := rfl
@[simp] theorem State.setST_dt (s : State) (b : Byte) : (s.setST b).dt = s.dt := rfl
@[simp] theorem State.setST_st (s : State) (b : Byte) : (s.setST b).st = b := rfl
@[simp] theorem State.setST_mem (s : State) (b : Byte) : (s.setST b).mem = s.mem := rfl
@[simp] theorem State.setST_fb (s : State) (b : Byte) : (s.setST b).fb = s.fb := rfl
@[simp] theorem State.setST_dirty (s : State) (b : Byte) : (s.setST b).dirty = s.dirty := rfl
@[simp] theorem State.setST_keys (s : State) (b : Byte) : (s.setST b).keys = s.keys := rfl
@[simp] theorem State.setST_kprev (s : State) (b : Byte) : (s.setST b).kprev = s.kprev := rfl
@[simp] theorem State.setST_status (s : State) (b : Byte) : (s.setST b).status = s.status := rfl
@[simp] theorem State.setST_rndDraws (s : State) (b : Byte) : (s.setST b).rndDraws = s.rndDraws := rfl

/-! ### setMem -/

@[simp] theorem State.setMem_v (s : State) (m : Memory) : (s.setMem m).v = s.v := rfl
@[simp] theorem State.setMem_i (s : State) (m : Memory) : (s.setMem m).i = s.i := rfl
@[simp] theorem State.setMem_pc (s : State) (m : Memory) : (s.setMem m).pc = s.pc := rfl
@[simp] theorem State.setMem_stack (s : State) (m : Memory) : (s.setMem m).stack = s.stack := rfl
@[simp] theorem State.setMem_sp (s : State) (m : Memory) : (s.setMem m).sp = s.sp := rfl
@[simp] theorem State.setMem_dt (s : State) (m : Memory) : (s.setMem m).dt = s.dt := rfl
@[simp] theorem State.setMem_st (s : State) (m : Memory) : (s.setMem m).st = s.st := rfl
@[simp] theorem State.setMem_mem (s : State) (m : Memory) : (s.setMem m).mem = m := rfl
@[simp] theorem State.setMem_fb (s : State) (m : Memory) : (s.setMem m).fb = s.fb := rfl
@[simp] theorem State.setMem_dirty (s : State) (m : Memory) : (s.setMem m).dirty = s.dirty := rfl
@[simp] theorem State.setMem_keys (s : State) (m : Memory) : (s.setMem m).keys = s.keys := rfl
@[simp] theorem State.setMem_kprev (s : State) (m : Memory) : (s.setMem m).kprev = s.kprev := rfl
@[simp] theorem State.setMem_status (s : State) (m : Memory) : (s.setMem m).status = s.status := rfl
@[simp] theorem State.setMem_rndDraws (s : State) (m : Memory) : (s.setMem m).rndDraws = s.rndDraws := rfl

/-! ### setFB -/

@[simp] theorem State.setFB_v (s : State) (f : Framebuffer) : (s.setFB f).v = s.v := rfl
@[simp] theorem State.setFB_i (s : State) (f : Framebuffer) : (s.setFB f).i = s.i := rfl
@[simp] theorem State.setFB_pc (s : State) (f : Framebuffer) : (s.setFB f).pc = s.pc := rfl
@[simp] theorem State.setFB_stack (s : State) (f : Framebuffer) : (s.setFB f).stack = s.stack := rfl
@[simp] theorem State.setFB_sp (s : State) (f : Framebuffer) : (s.setFB f).sp = s.sp := rfl
@[simp] theorem State.setFB_dt (s : State) (f : Framebuffer) : (s.setFB f).dt = s.dt := rfl
@[simp] theorem State.setFB_st (s : State) (f : Framebuffer) : (s.setFB f).st = s.st := rfl
@[simp] theorem State.setFB_mem (s : State) (f : Framebuffer) : (s.setFB f).mem = s.mem := rfl
@[simp] theorem State.setFB_fb (s : State) (f : Framebuffer) : (s.setFB f).fb = f := rfl
@[simp] theorem State.setFB_dirty (s : State) (f : Framebuffer) : (s.setFB f).dirty = s.dirty := rfl
@[simp] theorem State.setFB_keys (s : State) (f : Framebuffer) : (s.setFB f).keys = s.keys := rfl
@[simp] theorem State.setFB_kprev (s : State) (f : Framebuffer) : (s.setFB f).kprev = s.kprev := rfl
@[simp] theorem State.setFB_status (s : State) (f : Framebuffer) : (s.setFB f).status = s.status := rfl
@[simp] theorem State.setFB_rndDraws (s : State) (f : Framebuffer) : (s.setFB f).rndDraws = s.rndDraws := rfl

/-! ### setDirty -/

@[simp] theorem State.setDirty_v (s : State) (d : Bool) : (s.setDirty d).v = s.v := rfl
@[simp] theorem State.setDirty_i (s : State) (d : Bool) : (s.setDirty d).i = s.i := rfl
@[simp] theorem State.setDirty_pc (s : State) (d : Bool) : (s.setDirty d).pc = s.pc := rfl
@[simp] theorem State.setDirty_stack (s : State) (d : Bool) : (s.setDirty d).stack = s.stack := rfl
@[simp] theorem State.setDirty_sp (s : State) (d : Bool) : (s.setDirty d).sp = s.sp := rfl
@[simp] theorem State.setDirty_dt (s : State) (d : Bool) : (s.setDirty d).dt = s.dt := rfl
@[simp] theorem State.setDirty_st (s : State) (d : Bool) : (s.setDirty d).st = s.st := rfl
@[simp] theorem State.setDirty_mem (s : State) (d : Bool) : (s.setDirty d).mem = s.mem := rfl
@[simp] theorem State.setDirty_fb (s : State) (d : Bool) : (s.setDirty d).fb = s.fb := rfl
@[simp] theorem State.setDirty_dirty (s : State) (d : Bool) : (s.setDirty d).dirty = d := rfl
@[simp] theorem State.setDirty_keys (s : State) (d : Bool) : (s.setDirty d).keys = s.keys := rfl
@[simp] theorem State.setDirty_kprev (s : State) (d : Bool) : (s.setDirty d).kprev = s.kprev := rfl
@[simp] theorem State.setDirty_status (s : State) (d : Bool) : (s.setDirty d).status = s.status := rfl
@[simp] theorem State.setDirty_rndDraws (s : State) (d : Bool) : (s.setDirty d).rndDraws = s.rndDraws := rfl

/-! ### setKeys -/

@[simp] theorem State.setKeys_v (s : State) (k : Vector Bool 16) : (s.setKeys k).v = s.v := rfl
@[simp] theorem State.setKeys_i (s : State) (k : Vector Bool 16) : (s.setKeys k).i = s.i := rfl
@[simp] theorem State.setKeys_pc (s : State) (k : Vector Bool 16) : (s.setKeys k).pc = s.pc := rfl
@[simp] theorem State.setKeys_stack (s : State) (k : Vector Bool 16) : (s.setKeys k).stack = s.stack := rfl
@[simp] theorem State.setKeys_sp (s : State) (k : Vector Bool 16) : (s.setKeys k).sp = s.sp := rfl
@[simp] theorem State.setKeys_dt (s : State) (k : Vector Bool 16) : (s.setKeys k).dt = s.dt := rfl
@[simp] theorem State.setKeys_st (s : State) (k : Vector Bool 16) : (s.setKeys k).st = s.st := rfl
@[simp] theorem State.setKeys_mem (s : State) (k : Vector Bool 16) : (s.setKeys k).mem = s.mem := rfl
@[simp] theorem State.setKeys_fb (s : State) (k : Vector Bool 16) : (s.setKeys k).fb = s.fb := rfl
@[simp] theorem State.setKeys_dirty (s : State) (k : Vector Bool 16) : (s.setKeys k).dirty = s.dirty := rfl
@[simp] theorem State.setKeys_keys (s : State) (k : Vector Bool 16) : (s.setKeys k).keys = k := rfl
@[simp] theorem State.setKeys_kprev (s : State) (k : Vector Bool 16) : (s.setKeys k).kprev = s.kprev := rfl
@[simp] theorem State.setKeys_status (s : State) (k : Vector Bool 16) : (s.setKeys k).status = s.status := rfl
@[simp] theorem State.setKeys_rndDraws (s : State) (k : Vector Bool 16) : (s.setKeys k).rndDraws = s.rndDraws := rfl

/-! ### setKprev -/

@[simp] theorem State.setKprev_v (s : State) (k : Vector Bool 16) : (s.setKprev k).v = s.v := rfl
@[simp] theorem State.setKprev_i (s : State) (k : Vector Bool 16) : (s.setKprev k).i = s.i := rfl
@[simp] theorem State.setKprev_pc (s : State) (k : Vector Bool 16) : (s.setKprev k).pc = s.pc := rfl
@[simp] theorem State.setKprev_stack (s : State) (k : Vector Bool 16) : (s.setKprev k).stack = s.stack := rfl
@[simp] theorem State.setKprev_sp (s : State) (k : Vector Bool 16) : (s.setKprev k).sp = s.sp := rfl
@[simp] theorem State.setKprev_dt (s : State) (k : Vector Bool 16) : (s.setKprev k).dt = s.dt := rfl
@[simp] theorem State.setKprev_st (s : State) (k : Vector Bool 16) : (s.setKprev k).st = s.st := rfl
@[simp] theorem State.setKprev_mem (s : State) (k : Vector Bool 16) : (s.setKprev k).mem = s.mem := rfl
@[simp] theorem State.setKprev_fb (s : State) (k : Vector Bool 16) : (s.setKprev k).fb = s.fb := rfl
@[simp] theorem State.setKprev_dirty (s : State) (k : Vector Bool 16) : (s.setKprev k).dirty = s.dirty := rfl
@[simp] theorem State.setKprev_keys (s : State) (k : Vector Bool 16) : (s.setKprev k).keys = s.keys := rfl
@[simp] theorem State.setKprev_kprev (s : State) (k : Vector Bool 16) : (s.setKprev k).kprev = k := rfl
@[simp] theorem State.setKprev_status (s : State) (k : Vector Bool 16) : (s.setKprev k).status = s.status := rfl
@[simp] theorem State.setKprev_rndDraws (s : State) (k : Vector Bool 16) : (s.setKprev k).rndDraws = s.rndDraws := rfl

/-! ### setStatus -/

@[simp] theorem State.setStatus_v (s : State) (t : Status) : (s.setStatus t).v = s.v := rfl
@[simp] theorem State.setStatus_i (s : State) (t : Status) : (s.setStatus t).i = s.i := rfl
@[simp] theorem State.setStatus_pc (s : State) (t : Status) : (s.setStatus t).pc = s.pc := rfl
@[simp] theorem State.setStatus_stack (s : State) (t : Status) : (s.setStatus t).stack = s.stack := rfl
@[simp] theorem State.setStatus_sp (s : State) (t : Status) : (s.setStatus t).sp = s.sp := rfl
@[simp] theorem State.setStatus_dt (s : State) (t : Status) : (s.setStatus t).dt = s.dt := rfl
@[simp] theorem State.setStatus_st (s : State) (t : Status) : (s.setStatus t).st = s.st := rfl
@[simp] theorem State.setStatus_mem (s : State) (t : Status) : (s.setStatus t).mem = s.mem := rfl
@[simp] theorem State.setStatus_fb (s : State) (t : Status) : (s.setStatus t).fb = s.fb := rfl
@[simp] theorem State.setStatus_dirty (s : State) (t : Status) : (s.setStatus t).dirty = s.dirty := rfl
@[simp] theorem State.setStatus_keys (s : State) (t : Status) : (s.setStatus t).keys = s.keys := rfl
@[simp] theorem State.setStatus_kprev (s : State) (t : Status) : (s.setStatus t).kprev = s.kprev := rfl
@[simp] theorem State.setStatus_status (s : State) (t : Status) : (s.setStatus t).status = t := rfl
@[simp] theorem State.setStatus_rndDraws (s : State) (t : Status) : (s.setStatus t).rndDraws = s.rndDraws := rfl

/-! ### setStack -/

@[simp] theorem State.setStack_v (s : State) (e : Vector Word 16) (n : Fin 17) : (s.setStack e n).v = s.v := rfl
@[simp] theorem State.setStack_i (s : State) (e : Vector Word 16) (n : Fin 17) : (s.setStack e n).i = s.i := rfl
@[simp] theorem State.setStack_pc (s : State) (e : Vector Word 16) (n : Fin 17) : (s.setStack e n).pc = s.pc := rfl
@[simp] theorem State.setStack_stack (s : State) (e : Vector Word 16) (n : Fin 17) : (s.setStack e n).stack = e := rfl
@[simp] theorem State.setStack_sp (s : State) (e : Vector Word 16) (n : Fin 17) : (s.setStack e n).sp = n := rfl
@[simp] theorem State.setStack_dt (s : State) (e : Vector Word 16) (n : Fin 17) : (s.setStack e n).dt = s.dt := rfl
@[simp] theorem State.setStack_st (s : State) (e : Vector Word 16) (n : Fin 17) : (s.setStack e n).st = s.st := rfl
@[simp] theorem State.setStack_mem (s : State) (e : Vector Word 16) (n : Fin 17) : (s.setStack e n).mem = s.mem := rfl
@[simp] theorem State.setStack_fb (s : State) (e : Vector Word 16) (n : Fin 17) : (s.setStack e n).fb = s.fb := rfl
@[simp] theorem State.setStack_dirty (s : State) (e : Vector Word 16) (n : Fin 17) : (s.setStack e n).dirty = s.dirty := rfl
@[simp] theorem State.setStack_keys (s : State) (e : Vector Word 16) (n : Fin 17) : (s.setStack e n).keys = s.keys := rfl
@[simp] theorem State.setStack_kprev (s : State) (e : Vector Word 16) (n : Fin 17) : (s.setStack e n).kprev = s.kprev := rfl
@[simp] theorem State.setStack_status (s : State) (e : Vector Word 16) (n : Fin 17) : (s.setStack e n).status = s.status := rfl
@[simp] theorem State.setStack_rndDraws (s : State) (e : Vector Word 16) (n : Fin 17) : (s.setStack e n).rndDraws = s.rndDraws := rfl

/-! ### setRndDraws -/

@[simp] theorem State.setRndDraws_v (s : State) (n : Nat) : (s.setRndDraws n).v = s.v := rfl
@[simp] theorem State.setRndDraws_i (s : State) (n : Nat) : (s.setRndDraws n).i = s.i := rfl
@[simp] theorem State.setRndDraws_pc (s : State) (n : Nat) : (s.setRndDraws n).pc = s.pc := rfl
@[simp] theorem State.setRndDraws_stack (s : State) (n : Nat) : (s.setRndDraws n).stack = s.stack := rfl
@[simp] theorem State.setRndDraws_sp (s : State) (n : Nat) : (s.setRndDraws n).sp = s.sp := rfl
@[simp] theorem State.setRndDraws_dt (s : State) (n : Nat) : (s.setRndDraws n).dt = s.dt := rfl
@[simp] theorem State.setRndDraws_st (s : State) (n : Nat) : (s.setRndDraws n).st = s.st := rfl
@[simp] theorem State.setRndDraws_mem (s : State) (n : Nat) : (s.setRndDraws n).mem = s.mem := rfl
@[simp] theorem State.setRndDraws_fb (s : State) (n : Nat) : (s.setRndDraws n).fb = s.fb := rfl
@[simp] theorem State.setRndDraws_dirty (s : State) (n : Nat) : (s.setRndDraws n).dirty = s.dirty := rfl
@[simp] theorem State.setRndDraws_keys (s : State) (n : Nat) : (s.setRndDraws n).keys = s.keys := rfl
@[simp] theorem State.setRndDraws_kprev (s : State) (n : Nat) : (s.setRndDraws n).kprev = s.kprev := rfl
@[simp] theorem State.setRndDraws_status (s : State) (n : Nat) : (s.setRndDraws n).status = s.status := rfl
@[simp] theorem State.setRndDraws_rndDraws (s : State) (n : Nat) : (s.setRndDraws n).rndDraws = n := rfl

/-! ### advance -/

@[simp] theorem State.advance_v (s : State) : (s.advance).v = s.v := rfl
@[simp] theorem State.advance_i (s : State) : (s.advance).i = s.i := rfl
@[simp] theorem State.advance_pc (s : State) : (s.advance).pc = s.pc + 2 := rfl
@[simp] theorem State.advance_stack (s : State) : (s.advance).stack = s.stack := rfl
@[simp] theorem State.advance_sp (s : State) : (s.advance).sp = s.sp := rfl
@[simp] theorem State.advance_dt (s : State) : (s.advance).dt = s.dt := rfl
@[simp] theorem State.advance_st (s : State) : (s.advance).st = s.st := rfl
@[simp] theorem State.advance_mem (s : State) : (s.advance).mem = s.mem := rfl
@[simp] theorem State.advance_fb (s : State) : (s.advance).fb = s.fb := rfl
@[simp] theorem State.advance_dirty (s : State) : (s.advance).dirty = s.dirty := rfl
@[simp] theorem State.advance_keys (s : State) : (s.advance).keys = s.keys := rfl
@[simp] theorem State.advance_kprev (s : State) : (s.advance).kprev = s.kprev := rfl
@[simp] theorem State.advance_status (s : State) : (s.advance).status = s.status := rfl
@[simp] theorem State.advance_rndDraws (s : State) : (s.advance).rndDraws = s.rndDraws := rfl

/-! ### raiseFault -/

@[simp] theorem State.raiseFault_v (s : State) (c : FaultCause) (o : Option Word) : (s.raiseFault c o).v = s.v := rfl
@[simp] theorem State.raiseFault_i (s : State) (c : FaultCause) (o : Option Word) : (s.raiseFault c o).i = s.i := rfl
@[simp] theorem State.raiseFault_pc (s : State) (c : FaultCause) (o : Option Word) : (s.raiseFault c o).pc = s.pc := rfl
@[simp] theorem State.raiseFault_stack (s : State) (c : FaultCause) (o : Option Word) : (s.raiseFault c o).stack = s.stack := rfl
@[simp] theorem State.raiseFault_sp (s : State) (c : FaultCause) (o : Option Word) : (s.raiseFault c o).sp = s.sp := rfl
@[simp] theorem State.raiseFault_dt (s : State) (c : FaultCause) (o : Option Word) : (s.raiseFault c o).dt = s.dt := rfl
@[simp] theorem State.raiseFault_st (s : State) (c : FaultCause) (o : Option Word) : (s.raiseFault c o).st = s.st := rfl
@[simp] theorem State.raiseFault_mem (s : State) (c : FaultCause) (o : Option Word) : (s.raiseFault c o).mem = s.mem := rfl
@[simp] theorem State.raiseFault_fb (s : State) (c : FaultCause) (o : Option Word) : (s.raiseFault c o).fb = s.fb := rfl
@[simp] theorem State.raiseFault_dirty (s : State) (c : FaultCause) (o : Option Word) : (s.raiseFault c o).dirty = s.dirty := rfl
@[simp] theorem State.raiseFault_keys (s : State) (c : FaultCause) (o : Option Word) : (s.raiseFault c o).keys = s.keys := rfl
@[simp] theorem State.raiseFault_kprev (s : State) (c : FaultCause) (o : Option Word) : (s.raiseFault c o).kprev = s.kprev := rfl
@[simp] theorem State.raiseFault_status (s : State) (c : FaultCause) (o : Option Word) : (s.raiseFault c o).status = .faulted ⟨c, s.pc, o⟩ := rfl
@[simp] theorem State.raiseFault_rndDraws (s : State) (c : FaultCause) (o : Option Word) : (s.raiseFault c o).rndDraws = s.rndDraws := rfl

/-! ### skipIf -/

@[simp] theorem State.skipIf_v (s : State) (c : Bool) : (s.skipIf c).v = s.v := rfl
@[simp] theorem State.skipIf_i (s : State) (c : Bool) : (s.skipIf c).i = s.i := rfl
@[simp] theorem State.skipIf_pc (s : State) (c : Bool) : (s.skipIf c).pc = s.pc + if c then 4 else 2 := rfl
@[simp] theorem State.skipIf_stack (s : State) (c : Bool) : (s.skipIf c).stack = s.stack := rfl
@[simp] theorem State.skipIf_sp (s : State) (c : Bool) : (s.skipIf c).sp = s.sp := rfl
@[simp] theorem State.skipIf_dt (s : State) (c : Bool) : (s.skipIf c).dt = s.dt := rfl
@[simp] theorem State.skipIf_st (s : State) (c : Bool) : (s.skipIf c).st = s.st := rfl
@[simp] theorem State.skipIf_mem (s : State) (c : Bool) : (s.skipIf c).mem = s.mem := rfl
@[simp] theorem State.skipIf_fb (s : State) (c : Bool) : (s.skipIf c).fb = s.fb := rfl
@[simp] theorem State.skipIf_dirty (s : State) (c : Bool) : (s.skipIf c).dirty = s.dirty := rfl
@[simp] theorem State.skipIf_keys (s : State) (c : Bool) : (s.skipIf c).keys = s.keys := rfl
@[simp] theorem State.skipIf_kprev (s : State) (c : Bool) : (s.skipIf c).kprev = s.kprev := rfl
@[simp] theorem State.skipIf_status (s : State) (c : Bool) : (s.skipIf c).status = s.status := rfl
@[simp] theorem State.skipIf_rndDraws (s : State) (c : Bool) : (s.skipIf c).rndDraws = s.rndDraws := rfl

/-! ### writeV -/

@[simp] theorem State.writeV_v (s : State) (x : RegIdx) (b : Byte) : (s.writeV x b).v = s.v.set x b := rfl
@[simp] theorem State.writeV_i (s : State) (x : RegIdx) (b : Byte) : (s.writeV x b).i = s.i := rfl
@[simp] theorem State.writeV_pc (s : State) (x : RegIdx) (b : Byte) : (s.writeV x b).pc = s.pc := rfl
@[simp] theorem State.writeV_stack (s : State) (x : RegIdx) (b : Byte) : (s.writeV x b).stack = s.stack := rfl
@[simp] theorem State.writeV_sp (s : State) (x : RegIdx) (b : Byte) : (s.writeV x b).sp = s.sp := rfl
@[simp] theorem State.writeV_dt (s : State) (x : RegIdx) (b : Byte) : (s.writeV x b).dt = s.dt := rfl
@[simp] theorem State.writeV_st (s : State) (x : RegIdx) (b : Byte) : (s.writeV x b).st = s.st := rfl
@[simp] theorem State.writeV_mem (s : State) (x : RegIdx) (b : Byte) : (s.writeV x b).mem = s.mem := rfl
@[simp] theorem State.writeV_fb (s : State) (x : RegIdx) (b : Byte) : (s.writeV x b).fb = s.fb := rfl
@[simp] theorem State.writeV_dirty (s : State) (x : RegIdx) (b : Byte) : (s.writeV x b).dirty = s.dirty := rfl
@[simp] theorem State.writeV_keys (s : State) (x : RegIdx) (b : Byte) : (s.writeV x b).keys = s.keys := rfl
@[simp] theorem State.writeV_kprev (s : State) (x : RegIdx) (b : Byte) : (s.writeV x b).kprev = s.kprev := rfl
@[simp] theorem State.writeV_status (s : State) (x : RegIdx) (b : Byte) : (s.writeV x b).status = s.status := rfl
@[simp] theorem State.writeV_rndDraws (s : State) (x : RegIdx) (b : Byte) : (s.writeV x b).rndDraws = s.rndDraws := rfl

/-! ### finish -/

@[simp] theorem State.finish_v (s : State) (x : RegIdx) (b : Byte) : (s.finish x b).v = s.v.set x b := rfl
@[simp] theorem State.finish_i (s : State) (x : RegIdx) (b : Byte) : (s.finish x b).i = s.i := rfl
@[simp] theorem State.finish_pc (s : State) (x : RegIdx) (b : Byte) : (s.finish x b).pc = s.pc + 2 := rfl
@[simp] theorem State.finish_stack (s : State) (x : RegIdx) (b : Byte) : (s.finish x b).stack = s.stack := rfl
@[simp] theorem State.finish_sp (s : State) (x : RegIdx) (b : Byte) : (s.finish x b).sp = s.sp := rfl
@[simp] theorem State.finish_dt (s : State) (x : RegIdx) (b : Byte) : (s.finish x b).dt = s.dt := rfl
@[simp] theorem State.finish_st (s : State) (x : RegIdx) (b : Byte) : (s.finish x b).st = s.st := rfl
@[simp] theorem State.finish_mem (s : State) (x : RegIdx) (b : Byte) : (s.finish x b).mem = s.mem := rfl
@[simp] theorem State.finish_fb (s : State) (x : RegIdx) (b : Byte) : (s.finish x b).fb = s.fb := rfl
@[simp] theorem State.finish_dirty (s : State) (x : RegIdx) (b : Byte) : (s.finish x b).dirty = s.dirty := rfl
@[simp] theorem State.finish_keys (s : State) (x : RegIdx) (b : Byte) : (s.finish x b).keys = s.keys := rfl
@[simp] theorem State.finish_kprev (s : State) (x : RegIdx) (b : Byte) : (s.finish x b).kprev = s.kprev := rfl
@[simp] theorem State.finish_status (s : State) (x : RegIdx) (b : Byte) : (s.finish x b).status = s.status := rfl
@[simp] theorem State.finish_rndDraws (s : State) (x : RegIdx) (b : Byte) : (s.finish x b).rndDraws = s.rndDraws := rfl

/-! ### finishWithFlag -/

@[simp] theorem State.finishWithFlag_v (s : State) (x : RegIdx) (b : Byte) (g : Bool) : (s.finishWithFlag x b g).v = (s.v.set x b).set VF (flagByte g) := rfl
@[simp] theorem State.finishWithFlag_i (s : State) (x : RegIdx) (b : Byte) (g : Bool) : (s.finishWithFlag x b g).i = s.i := rfl
@[simp] theorem State.finishWithFlag_pc (s : State) (x : RegIdx) (b : Byte) (g : Bool) : (s.finishWithFlag x b g).pc = s.pc + 2 := rfl
@[simp] theorem State.finishWithFlag_stack (s : State) (x : RegIdx) (b : Byte) (g : Bool) : (s.finishWithFlag x b g).stack = s.stack := rfl
@[simp] theorem State.finishWithFlag_sp (s : State) (x : RegIdx) (b : Byte) (g : Bool) : (s.finishWithFlag x b g).sp = s.sp := rfl
@[simp] theorem State.finishWithFlag_dt (s : State) (x : RegIdx) (b : Byte) (g : Bool) : (s.finishWithFlag x b g).dt = s.dt := rfl
@[simp] theorem State.finishWithFlag_st (s : State) (x : RegIdx) (b : Byte) (g : Bool) : (s.finishWithFlag x b g).st = s.st := rfl
@[simp] theorem State.finishWithFlag_mem (s : State) (x : RegIdx) (b : Byte) (g : Bool) : (s.finishWithFlag x b g).mem = s.mem := rfl
@[simp] theorem State.finishWithFlag_fb (s : State) (x : RegIdx) (b : Byte) (g : Bool) : (s.finishWithFlag x b g).fb = s.fb := rfl
@[simp] theorem State.finishWithFlag_dirty (s : State) (x : RegIdx) (b : Byte) (g : Bool) : (s.finishWithFlag x b g).dirty = s.dirty := rfl
@[simp] theorem State.finishWithFlag_keys (s : State) (x : RegIdx) (b : Byte) (g : Bool) : (s.finishWithFlag x b g).keys = s.keys := rfl
@[simp] theorem State.finishWithFlag_kprev (s : State) (x : RegIdx) (b : Byte) (g : Bool) : (s.finishWithFlag x b g).kprev = s.kprev := rfl
@[simp] theorem State.finishWithFlag_status (s : State) (x : RegIdx) (b : Byte) (g : Bool) : (s.finishWithFlag x b g).status = s.status := rfl
@[simp] theorem State.finishWithFlag_rndDraws (s : State) (x : RegIdx) (b : Byte) (g : Bool) : (s.finishWithFlag x b g).rndDraws = s.rndDraws := rfl

/-! ### Registers -/

/-- Reading a register after writing one: the written value at the written register, the old one elsewhere. -/
theorem State.readV_writeV (s : State) (x r : RegIdx) (b : Byte) :
    (s.writeV x b).readV r = if r = x then b else s.readV r := by
  unfold State.readV
  rw [State.writeV_v]
  simp only [Fin.getElem_fin, Vector.getElem_set]
  by_cases h : r = x
  · simp [h]
  · rw [if_neg h, if_neg fun e => h (Fin.ext e.symm)]

@[simp] theorem State.readV_writeV_same (s : State) (x : RegIdx) (b : Byte) : (s.writeV x b).readV x = b := by
  simp [State.readV_writeV]

theorem State.readV_writeV_other {s : State} {x r : RegIdx} (h : r ≠ x) (b : Byte) :
    (s.writeV x b).readV r = s.readV r := by
  simp [State.readV_writeV, h]

/-- `finish` as a register read sees it. -/
theorem State.readV_finish (s : State) (x r : RegIdx) (b : Byte) :
    (s.finish x b).readV r = if r = x then b else s.readV r := State.readV_writeV s x r b

/-- `finishWithFlag` as a register read sees it: the flag in `VF`, whichever register the result went to (R600). -/
theorem State.readV_finishWithFlag (s : State) (x r : RegIdx) (b : Byte) (g : Bool) :
    (s.finishWithFlag x b g).readV r = if r = VF then flagByte g else if r = x then b else s.readV r := by
  rw [show (s.finishWithFlag x b g).readV r = ((s.writeV x b).writeV VF (flagByte g)).readV r from rfl,
    State.readV_writeV, State.readV_writeV]

/-- A register read sees nothing but the registers. -/
theorem State.readV_congr {s t : State} (h : t.v = s.v) (r : RegIdx) : t.readV r = s.readV r := by
  simp [State.readV, h]

/-- A memory read sees nothing but memory. -/
theorem State.readByte_congr {s t : State} (h : t.mem = s.mem) (a : Nat) : t.readByte a = s.readByte a := by
  simp [State.readByte, h]

/-- A pixel read sees nothing but the framebuffer. -/
theorem State.pixel_congr {s t : State} (h : t.fb = s.fb) (px : Fin 64) (py : Fin 32) : t.pixel px py = s.pixel px py := by
  simp [State.pixel, h]

/-- Two states with the same registers field are told apart by no register read, and the converse. -/
theorem State.v_ext {s t : State} (h : ∀ r : RegIdx, t.readV r = s.readV r) : t.v = s.v := by
  refine Vector.ext fun k hk => ?_
  exact h ⟨k, hk⟩

end Sys2Proof.Machine
end

