-- ==== Sys2Proof/Laws/Memory.lean ====
section
/-!
SUPPORT. The laws of memory: a read after a write, a write leaves every other byte, the canonical form is kept, and what the two
bounds checks of spec/20_memory.md R220 and R221 let through.
-/
namespace Sys2Proof.Machine

/-! ## Reading after writing -/

theorem Memory.read_cons (a : Nat) (b : Byte) (m : Memory) (q : Nat) :
    (Memory.cons a b m).read q = if q = a ∧ b ≠ Memory.resetByte a then b else m.read q := by
  unfold Memory.cons
  by_cases hb : b = Memory.resetByte a
  · simp [hb]
  · by_cases hq : q = a <;> simp [hb, hq, Memory.read]

/-- A write leaves every other byte alone, whatever form memory has. -/
theorem Memory.read_write_other (m : Memory) (a : Nat) (b : Byte) {q : Nat} (h : q ≠ a) :
    (m.write a b).read q = m.read q := by
  induction m with
  | nil => simp [Memory.write, Memory.read_cons, h]
  | cons c m ih =>
    obtain ⟨k, v⟩ := c
    unfold Memory.write
    split
    · simp [Memory.read_cons, h]
    · split
      · next e => subst e; simp [Memory.read_cons, h, Memory.read]
      · by_cases hk : q = k <;> simp [Memory.read, hk, ih]

/-- Below its first possible address a well-formed memory reads as at reset. -/
theorem Memory.read_below {lo : Nat} {m : Memory} (hm : Memory.wfFrom lo m = true) {q : Nat} (h : q < lo) :
    m.read q = Memory.resetByte q := by
  induction m generalizing lo with
  | nil => rfl
  | cons c m ih =>
    obtain ⟨k, v⟩ := c
    simp only [Memory.wfFrom, Bool.and_eq_true, decide_eq_true_eq] at hm
    obtain ⟨⟨⟨h1, _⟩, _⟩, h4⟩ := hm
    simp [Memory.read, show q ≠ k by omega, ih h4 (by omega : q < k + 1)]

theorem Memory.read_write_same_from {lo : Nat} {m : Memory} (hm : Memory.wfFrom lo m = true) (a : Nat) (b : Byte) :
    (m.write a b).read a = b := by
  induction m generalizing lo with
  | nil =>
    rw [Memory.write, Memory.read_cons]
    by_cases hb : b = Memory.resetByte a <;> simp [hb, Memory.read]
  | cons c m ih =>
    obtain ⟨k, v⟩ := c
    have hm' := hm
    simp only [Memory.wfFrom, Bool.and_eq_true, decide_eq_true_eq] at hm
    obtain ⟨⟨⟨h1, h2⟩, h3⟩, h4⟩ := hm
    unfold Memory.write
    split
    · next hlt =>
      have hcons : Memory.wfFrom k ((k, v) :: m) = true := by simp [Memory.wfFrom, h2, h3, h4]
      rw [Memory.read_cons, Memory.read_below hcons hlt]
      by_cases hb : b = Memory.resetByte a <;> simp [hb]
    · split
      · next e =>
        subst e
        rw [Memory.read_cons, Memory.read_below h4 (by omega : a < a + 1)]
        by_cases hb : b = Memory.resetByte a <;> simp [hb]
      · next hne => simp [Memory.read, hne, ih h4]

/-- A read after a write to the same address gives the byte written. -/
theorem Memory.read_write_same {m : Memory} (hm : m.wf = true) (a : Nat) (b : Byte) : (m.write a b).read a = b :=
  Memory.read_write_same_from hm a b

/-! ## The canonical form is kept -/

theorem Memory.wfFrom_mono {lo lo' : Nat} {m : Memory} (h : Memory.wfFrom lo m = true) (hl : lo' ≤ lo) :
    Memory.wfFrom lo' m = true := by
  cases m with
  | nil => rfl
  | cons c m =>
    obtain ⟨k, v⟩ := c
    simp only [Memory.wfFrom, Bool.and_eq_true, decide_eq_true_eq] at h ⊢
    exact ⟨⟨⟨by omega, h.1.1.2⟩, h.1.2⟩, h.2⟩

theorem Memory.wfFrom_cons {lo a : Nat} {b : Byte} {m : Memory} (hlo : lo ≤ a) (ha : a ≤ Params.memLast)
    (hm : Memory.wfFrom (a + 1) m = true) : Memory.wfFrom lo (Memory.cons a b m) = true := by
  unfold Memory.cons
  split
  · exact Memory.wfFrom_mono hm (by omega)
  · next hb => simp [Memory.wfFrom, hlo, ha, hb, hm]

theorem Memory.wfFrom_write {lo a : Nat} {b : Byte} {m : Memory} (hm : Memory.wfFrom lo m = true) (hlo : lo ≤ a)
    (ha : a ≤ Params.memLast) : Memory.wfFrom lo (m.write a b) = true := by
  induction m generalizing lo with
  | nil => exact Memory.wfFrom_cons hlo ha rfl
  | cons c m ih =>
    obtain ⟨k, v⟩ := c
    simp only [Memory.wfFrom, Bool.and_eq_true, decide_eq_true_eq] at hm
    obtain ⟨⟨⟨h1, h2⟩, h3⟩, h4⟩ := hm
    unfold Memory.write
    split
    · next hlt =>
      refine Memory.wfFrom_cons hlo ha ?_
      simp only [Memory.wfFrom, Bool.and_eq_true, decide_eq_true_eq]
      exact ⟨⟨⟨by omega, h2⟩, h3⟩, h4⟩
    · split
      · next e => subst e; exact Memory.wfFrom_cons hlo ha h4
      · next hge hne =>
        simp only [Memory.wfFrom, Bool.and_eq_true, decide_eq_true_eq]
        exact ⟨⟨⟨h1, h2⟩, h3⟩, ih h4 (by omega)⟩

/-- A write to an address that exists keeps the canonical form. -/
theorem Memory.wf_write {m : Memory} (hm : m.wf = true) {a : Nat} (ha : a ≤ Params.memLast) (b : Byte) :
    (m.write a b).wf = true :=
  Memory.wfFrom_write hm (Nat.zero_le a) ha

/-! ## Transfers of several bytes -/

/-- A transfer leaves every byte outside its range alone. -/
theorem Memory.read_writeBytes_other (bs : List Byte) (m : Memory) (a : Nat) {q : Nat}
    (h : ¬ (a ≤ q ∧ q < a + bs.length)) : (m.writeBytes a bs).read q = m.read q := by
  induction bs generalizing m a with
  | nil => rfl
  | cons b bs ih =>
    simp only [List.length_cons] at h
    rw [Memory.writeBytes, ih (m.write a b) (a + 1) (by omega), Memory.read_write_other _ _ _ (by omega)]

/-- A transfer inside memory keeps the canonical form. -/
theorem Memory.wf_writeBytes (bs : List Byte) {m : Memory} (hm : m.wf = true) {a : Nat}
    (ha : a + bs.length ≤ Params.memLast + 1) : (m.writeBytes a bs).wf = true := by
  induction bs generalizing m a with
  | nil => exact hm
  | cons b bs ih =>
    simp only [List.length_cons] at ha
    exact ih (Memory.wf_write hm (by omega) b) (by omega)

/-- After a transfer inside memory, byte `k` of its range reads as the `k`-th byte stored. -/
theorem Memory.read_writeBytes_at (bs : List Byte) {m : Memory} (hm : m.wf = true) {a : Nat}
    (ha : a + bs.length ≤ Params.memLast + 1) {k : Nat} (hk : k < bs.length) :
    (m.writeBytes a bs).read (a + k) = bs[k] := by
  induction bs generalizing m a k with
  | nil => simp at hk
  | cons b bs ih =>
    simp only [List.length_cons] at ha hk
    have hw := Memory.wf_write hm (by omega : a ≤ Params.memLast) b
    cases k with
    | zero =>
      rw [Memory.writeBytes, Memory.read_writeBytes_other _ _ _ (by omega), Nat.add_zero, Memory.read_write_same hm]
      rfl
    | succ k =>
      rw [Memory.writeBytes, show a + (k + 1) = a + 1 + k by omega, ih hw (by omega) (by omega)]
      rfl

@[simp] theorem Memory.length_readBytes (m : Memory) (a n : Nat) : (m.readBytes a n).length = n := by
  induction n generalizing a with
  | zero => rfl
  | succ n ih => simp [Memory.readBytes, ih]

/-- Byte `k` of a bulk read is the byte at `a + k`. -/
theorem Memory.getElem_readBytes (m : Memory) (a n : Nat) {k : Nat} (hk : k < (m.readBytes a n).length) :
    (m.readBytes a n)[k] = m.read (a + k) := by
  induction n generalizing a k with
  | zero => simp [Memory.readBytes] at hk
  | succ n ih =>
    cases k with
    | zero => rfl
    | succ k =>
      simp only [Memory.readBytes, List.getElem_cons_succ]
      rw [ih, show a + 1 + k = a + (k + 1) by omega]

/-- Two memories that read alike give the same bulk read. -/
theorem Memory.readBytes_congr {m m' : Memory} (h : ∀ q, m'.read q = m.read q) (a n : Nat) :
    m'.readBytes a n = m.readBytes a n := by
  induction n generalizing a with
  | zero => rfl
  | succ n ih => simp [Memory.readBytes, h, ih]

/-- What `FX65` loads: `V[k]` for `k < n` is the byte at `a + k`, and the registers above are as before (R705). -/
theorem loadInto_get (m : Memory) (a : Nat) (v : Vector Byte 16) (n : Nat) (r : RegIdx) :
    (loadInto m a v n)[r] = if r.val < n then m.read (a + r.val) else v[r] := by
  induction n with
  | zero => simp [loadInto]
  | succ n ih =>
    simp only [Fin.getElem_fin] at ih ⊢
    simp only [loadInto, Vector.getElem_setIfInBounds, ih]
    by_cases h : n = r.val
    · simp [h]
    · by_cases h2 : r.val < n
      · simp [h, h2, show r.val < n + 1 by omega]
      · simp [h, h2, show ¬ r.val < n + 1 by omega]

/-! ## What the checks let through -/

/-- `CheckRead` passes exactly a range that is empty or inside memory (R220). -/
theorem checkRead_eq_none_iff (a : Word) (n : Nat) : checkRead a n = none ↔ n = 0 ∨ a.toNat + n ≤ 4096 := by
  unfold checkRead Params.memLast
  split
  · next h => simp; omega
  · next h => simp; omega

/-- What a failed `CheckRead` raises (R220). -/
theorem checkRead_eq_some {a : Word} {n : Nat} (h : 0 < n ∧ 4096 < a.toNat + n) :
    checkRead a n = some (.boundsFault (.readOutOfRange a n)) := by
  unfold checkRead Params.memLast
  rw [if_pos (by omega)]

/-- `CheckWrite` passes exactly a range inside memory that starts above the interpreter region (R221, R222). -/
theorem checkWrite_eq_none_iff (a : Word) {n : Nat} (hn : 1 ≤ n) :
    checkWrite a n = none ↔ 0x200 ≤ a.toNat ∧ a.toNat + n ≤ 4096 := by
  unfold checkWrite Params.memLast Params.interpHi Params.protectInterpRegion
  split
  · next h => simp; omega
  · next h =>
    split
    · next h2 => simp; omega
    · next h2 => simp at h2 ⊢; omega

/-- `WriteOutOfRange` is tested first (R221, R907). -/
theorem checkWrite_outOfRange {a : Word} {n : Nat} (h : 4096 < a.toNat + n) :
    checkWrite a n = some (.boundsFault (.writeOutOfRange a n)) := by
  unfold checkWrite Params.memLast
  rw [if_pos (by omega)]

/-- `WriteProtected` for a range inside memory that touches the interpreter region (R221, R222). -/
theorem checkWrite_protected {a : Word} {n : Nat} (h : a.toNat + n ≤ 4096) (hp : a.toNat ≤ 0x1FF) :
    checkWrite a n = some (.boundsFault (.writeProtected a n)) := by
  unfold checkWrite Params.memLast Params.interpHi Params.protectInterpRegion
  rw [if_neg (by omega), if_pos ⟨rfl, by omega⟩]

/-- Every cause `CheckRead` gives is `ReadOutOfRange` of its range. -/
theorem checkRead_cause {a : Word} {n : Nat} {c : FaultCause} (h : checkRead a n = some c) :
    c = .boundsFault (.readOutOfRange a n) := by
  unfold checkRead at h
  split at h
  · exact (Option.some.inj h).symm
  · simp at h

/-- Every cause `CheckWrite` gives is `WriteOutOfRange` or `WriteProtected` of its range. -/
theorem checkWrite_cause {a : Word} {n : Nat} {c : FaultCause} (h : checkWrite a n = some c) :
    c = .boundsFault (.writeOutOfRange a n) ∨ c = .boundsFault (.writeProtected a n) := by
  unfold checkWrite at h
  split at h
  · exact .inl (Option.some.inj h).symm
  · split at h
    · exact .inr (Option.some.inj h).symm
    · simp at h

end Sys2Proof.Machine
end

