-- ==== Sys2Proof/Laws/Draw.lean ====
section
/-!
SUPPORT. What drawing a sprite does, pixel by pixel, for both edge policies. A sprite whose bits fall on pairwise different
pixels flips exactly the pixels its bits fall on, and collides iff one of them was set (spec/40_display.md R402, R405).
-/
namespace Sys2Proof.Machine

/-- Reading a pixel after flipping one. -/
theorem Canvas.flip_pixel (c : Canvas) (q : Fin 64 × Fin 32) (px : Fin 64) (py : Fin 32) :
    (c.flip q).fb[py][px] = if (px, py) = q then !c.fb[py][px] else c.fb[py][px] := by
  obtain ⟨qx, qy⟩ := q
  simp only [Canvas.flip, Fin.getElem_fin, Vector.getElem_set, Prod.mk.injEq]
  by_cases hy : qy = py
  · subst hy
    by_cases hx : qx = px
    · subst hx; simp
    · simp [Fin.val_ne_of_ne hx, Ne.symm hx]
  · simp [Fin.val_ne_of_ne hy, Ne.symm hy]

theorem Canvas.flip_collision (c : Canvas) (q : Fin 64 × Fin 32) :
    (c.flip q).collision = (c.collision || c.fb[q.2][q.1]) := rfl

/-- The pixels a list of sprite bits falls on, in drawing order: `(row, col)` bits that are set and on the screen. -/
def rowHits (p : EdgePolicy) (x0 y0 row : Nat) (b : Byte) : List Nat → List (Fin 64 × Fin 32)
  | [] => []
  | col :: cols =>
    if b.getLsbD (7 - col) then
      match spritePixel p x0 y0 col row with
      | some q => q :: rowHits p x0 y0 row b cols
      | none => rowHits p x0 y0 row b cols
    else rowHits p x0 y0 row b cols

/-- The pixels of all rows from `row` on, in drawing order. -/
def spriteHits (p : EdgePolicy) (x0 y0 : Nat) : Nat → List Byte → List (Fin 64 × Fin 32)
  | _, [] => []
  | row, b :: bs => rowHits p x0 y0 row b [0, 1, 2, 3, 4, 5, 6, 7] ++ spriteHits p x0 y0 (row + 1) bs

/-- Drawing a row flips its hits one after the other. -/
theorem foldl_drawColumn (p : EdgePolicy) (x0 y0 row : Nat) (b : Byte) (cols : List Nat) (c : Canvas) :
    cols.foldl (Canvas.drawColumn p x0 y0 row b) c = (rowHits p x0 y0 row b cols).foldl Canvas.flip c := by
  induction cols generalizing c with
  | nil => rfl
  | cons col cols ih =>
    rw [List.foldl_cons, ih]
    unfold Canvas.drawColumn
    rw [rowHits]
    split
    · cases h : spritePixel p x0 y0 col row <;> rfl
    · rfl

/-- Drawing a sprite flips its hits one after the other. -/
theorem drawRows_eq_foldl (p : EdgePolicy) (x0 y0 row : Nat) (bs : List Byte) (c : Canvas) :
    Canvas.drawRows p x0 y0 row bs c = (spriteHits p x0 y0 row bs).foldl Canvas.flip c := by
  induction bs generalizing row c with
  | nil => rfl
  | cons b bs ih => rw [Canvas.drawRows, ih, spriteHits, List.foldl_append, Canvas.drawRow, foldl_drawColumn]

/-- Which pixels a row hits. -/
theorem mem_rowHits {p : EdgePolicy} {x0 y0 row : Nat} {b : Byte} {cols : List Nat} {q : Fin 64 × Fin 32} :
    q ∈ rowHits p x0 y0 row b cols ↔
      ∃ col ∈ cols, b.getLsbD (7 - col) = true ∧ spritePixel p x0 y0 col row = some q := by
  induction cols with
  | nil => simp [rowHits]
  | cons col cols ih =>
    rw [rowHits]
    by_cases hb : b.getLsbD (7 - col) = true
    · rw [if_pos hb]
      cases h : spritePixel p x0 y0 col row with
      | none => simp [ih, hb, h]
      | some r => simp [ih, hb, h, eq_comm (a := q)]
    · rw [if_neg hb]; simp [ih, hb]

/-- Which pixels a sprite hits. -/
theorem mem_spriteHits {p : EdgePolicy} {x0 y0 row : Nat} {bs : List Byte} {q : Fin 64 × Fin 32} :
    q ∈ spriteHits p x0 y0 row bs ↔
      ∃ (k : Nat) (hk : k < bs.length), ∃ col < 8,
        (bs[k]).getLsbD (7 - col) = true ∧ spritePixel p x0 y0 col (row + k) = some q := by
  induction bs generalizing row with
  | nil => simp [spriteHits]
  | cons b bs ih =>
    rw [spriteHits, List.mem_append, ih, mem_rowHits]
    constructor
    · rintro (⟨col, hcol, hb, hq⟩ | ⟨k, hk, col, hcol, hb, hq⟩)
      · refine ⟨0, by simp, col, ?_, hb, hq⟩
        simp at hcol; omega
      · exact ⟨k + 1, by simpa using hk, col, hcol, hb, by rw [show row + (k + 1) = row + 1 + k by omega]; exact hq⟩
    · rintro ⟨k, hk, col, hcol, hb, hq⟩
      cases k with
      | zero =>
        refine .inl ⟨col, ?_, hb, hq⟩
        simp; omega
      | succ k =>
        refine .inr ⟨k, by simpa using hk, col, hcol, hb, ?_⟩
        rw [show row + 1 + k = row + (k + 1) by omega]; exact hq

/-- Flipping pairwise different pixels: exactly those change, and the collision bit gains whether one of them was set. -/
theorem foldl_flip {hits : List (Fin 64 × Fin 32)} (hn : hits.Nodup) (c : Canvas) :
    (∀ px py, (hits.foldl Canvas.flip c).fb[py][px] = if (px, py) ∈ hits then !c.fb[py][px] else c.fb[py][px]) ∧
    ((hits.foldl Canvas.flip c).collision = true ↔ c.collision = true ∨ ∃ q ∈ hits, c.fb[q.2][q.1] = true) := by
  induction hits generalizing c with
  | nil => simp
  | cons q hits ih =>
    rw [List.nodup_cons] at hn
    obtain ⟨h1, h2⟩ := ih hn.2 (c.flip q)
    rw [List.foldl_cons]
    constructor
    · intro px py
      rw [h1, Canvas.flip_pixel]
      by_cases hq : (px, py) = q
      · subst hq; simp [hn.1]
      · simp [hq]
    · rw [h2]
      constructor
      · rintro (h | ⟨r, hr, hs⟩)
        · rw [Canvas.flip_collision, Bool.or_eq_true] at h
          rcases h with h | h
          · exact .inl h
          · exact .inr ⟨q, by simp, h⟩
        · have hne : (r.1, r.2) ≠ q := fun e => hn.1 (e ▸ hr)
          rw [Canvas.flip_pixel, if_neg hne] at hs
          exact .inr ⟨r, by simp [hr], hs⟩
      · rintro (h | ⟨r, hr, hs⟩)
        · exact .inl (by rw [Canvas.flip_collision, h, Bool.true_or])
        · rcases List.mem_cons.mp hr with e | hr
          · subst e; exact .inl (by rw [Canvas.flip_collision, hs, Bool.or_true])
          · refine .inr ⟨r, hr, ?_⟩
            have hne : (r.1, r.2) ≠ q := fun e => hn.1 (e ▸ hr)
            rw [Canvas.flip_pixel, if_neg hne]
            exact hs

/-- Two sprite bits fall on the same pixel only if they are the same bit, for a sprite no larger than 8 by 32 (R402 (d)). -/
theorem spritePixel_inj {p : EdgePolicy} {x0 y0 col row col' row' : Nat} {q : Fin 64 × Fin 32} (hc : col < 8) (hc' : col' < 8)
    (hr : row < 32) (hr' : row' < 32) (h : spritePixel p x0 y0 col row = some q)
    (h' : spritePixel p x0 y0 col' row' = some q) : col = col' ∧ row = row' := by
  cases p with
  | wrap =>
    simp only [spritePixel, Option.some.injEq] at h h'
    subst h
    simp only [Prod.mk.injEq, Fin.mk.injEq] at h'
    omega
  | clip =>
    simp only [spritePixel] at h h'
    split at h <;> simp at h
    split at h' <;> simp at h'
    subst h
    simp only [Prod.mk.injEq, Fin.mk.injEq] at h'
    omega

theorem nodup_rowHits {p : EdgePolicy} {x0 y0 row : Nat} {b : Byte} {cols : List Nat} (hn : cols.Nodup)
    (hc : ∀ c ∈ cols, c < 8) (hr : row < 32) : (rowHits p x0 y0 row b cols).Nodup := by
  induction cols with
  | nil => exact List.nodup_nil
  | cons col cols ih =>
    rw [List.nodup_cons] at hn
    have ih' := ih hn.2 fun c h => hc c (by simp [h])
    rw [rowHits]
    split
    · cases h : spritePixel p x0 y0 col row with
      | none => exact ih'
      | some q =>
        refine List.nodup_cons.mpr ⟨fun hmem => ?_, ih'⟩
        obtain ⟨c, hcm, _, hq⟩ := mem_rowHits.mp hmem
        have := (spritePixel_inj (hc col (by simp)) (hc c (by simp [hcm])) hr hr h hq).1
        exact hn.1 (this ▸ hcm)
    · exact ih'

/-- The hits of a sprite of at most 32 rows are pairwise different. -/
theorem nodup_spriteHits {p : EdgePolicy} {x0 y0 row : Nat} {bs : List Byte} (h : row + bs.length ≤ 32) :
    (spriteHits p x0 y0 row bs).Nodup := by
  induction bs generalizing row with
  | nil => exact List.nodup_nil
  | cons b bs ih =>
    simp only [List.length_cons] at h
    rw [spriteHits]
    refine List.nodup_append.mpr ⟨nodup_rowHits (by decide) (by decide) (by omega), ih (by omega), ?_⟩
    rintro q h1 r h2 rfl
    obtain ⟨col, hcm, _, hq⟩ := mem_rowHits.mp h1
    obtain ⟨k, hk, col', hc', _, hq'⟩ := mem_spriteHits.mp h2
    have hc : col < 8 := by simp at hcm; omega
    have := (spritePixel_inj hc hc' (by omega) (by omega) hq hq').2
    omega

end Sys2Proof.Machine
end

