-- ==== Sys2Proof/Laws/Step.lean ====
section
/-!
SUPPORT. What each shared operation and the step can do, said once: the fault wrapper, the stack, the fetch, the poll, the tick,
the ROM load, and the inversion of a step.
-/
namespace Sys2Proof.Machine

/-! ## Fault wrapper -/

/-- A check that passes lets the instruction end. -/
theorem State.unlessFault_none {s t : State} {i : Instr} {c : Option FaultCause} (h : c = none) :
    s.unlessFault i c t = .next t := by
  subst h; rfl

/-- A check that fails raises its cause and changes nothing else. -/
theorem State.unlessFault_some {s t : State} {i : Instr} {c : Option FaultCause} {cause : FaultCause} (h : c = some cause) :
    s.unlessFault i c t = .next (s.raiseFault cause (some (encode i))) := by
  subst h; rfl

/-- Everything the wrapper can answer. -/
theorem State.unlessFault_cases {s t u : State} {i : Instr} {c : Option FaultCause} (h : s.unlessFault i c t = .next u) :
    c = none ∧ u = t ∨ ∃ cause, c = some cause ∧ u = s.raiseFault cause (some (encode i)) := by
  cases c with
  | none => exact .inl ⟨rfl, (Host.Outcome.next.inj h).symm⟩
  | some cause => exact .inr ⟨cause, rfl, (Host.Outcome.next.inj h).symm⟩

/-! ## Stack -/

/-- A push below the top of the stack (R131). -/
theorem State.push_of_lt {s : State} (h : s.sp.val < 16) (a : Word) :
    s.push a = some (s.setStack (s.stack.set s.sp.val a h) ⟨s.sp.val + 1, by omega⟩) := by
  simp [State.push, h]

/-- A push on a full stack (R131). -/
theorem State.push_full {s : State} (h : s.sp.val = 16) (a : Word) : s.push a = none := by
  simp [State.push, h]

/-- A pop of a stack in use (R131). -/
theorem State.pop_of_pos {s : State} (h : 0 < s.sp.val) :
    s.pop = some (s.stack[s.sp.val - 1]'(by omega), s.setStack s.stack ⟨s.sp.val - 1, by omega⟩) := by
  simp [State.pop, h]

/-- A pop of an empty stack (R131). -/
theorem State.pop_empty {s : State} (h : s.sp.val = 0) : s.pop = none := by
  simp [State.pop, h]

/-! ## Fetch -/

theorem State.pcInRange_iff (s : State) : s.pcInRange = true ↔ 0x200 ≤ s.pc.toNat ∧ s.pc.toNat ≤ 0xE9F := by
  rw [State.pcInRange, Bool.and_eq_true, decide_eq_true_eq, decide_eq_true_eq]
  exact Iff.rfl

/-- The fetched bytes are the two bytes at `pc`. -/
theorem State.fetchBytes_eq (s : State) : s.fetchBytes = [s.readByte s.pc.toNat, s.readByte (s.pc.toNat + 1)] := rfl

/-- Outside the program region nothing is fetched (R902). -/
theorem State.fetchInstr_outOfRange {s : State} (h : s.pcInRange = false) :
    s.fetchInstr = .error (.programCounterOutOfRange, none) := by
  simp [State.fetchInstr, h]

/-- Inside it the fetch is the decoder's answer for the word at `pc` (R301, R903). -/
theorem State.fetchInstr_inRange {s : State} (h : s.pcInRange = true) :
    s.fetchInstr =
      match decodeWord s.fetchWord with
      | .ok i => .ok i
      | .error _ => .error (.unknownOpcode, some s.fetchWord) := by
  have hw : composeWord (s.readByte s.pc.toNat) (s.readByte (s.pc.toNat + 1)) = s.fetchWord := rfl
  rw [State.fetchInstr, if_pos h, State.fetchBytes_eq, decode_two, hw]
  cases decodeWord s.fetchWord <;> rfl

/-- The decoder rejects a word only by its own name. -/
theorem decodeWord_error {w : Word} {r : Reject} (h : decodeWord w = .error r) : r = .unknownOpcode w := by
  unfold decodeWord at h
  simp only [decodeFamily0, decodeIfN0, decodeFamily8, decodeFamilyE, decodeFamilyF] at h
  repeat' split at h
  all_goals first | exact (Except.error.inj h).symm | exact absurd h (by simp)

/-! ## Step -/

/-- Everything a step can do (R313). -/
theorem step_cases {s t : State} (h : step s = .next t) :
    (∃ r, s.status = .faulted r ∧ t = s) ∨
    (∃ x, s.status = .awaitingKey x ∧ t = s.poll x) ∨
    (s.status = .running ∧ s.pcInRange = false ∧ t = s.raiseFault .programCounterOutOfRange none) ∨
    (s.status = .running ∧ s.pcInRange = true ∧ decodeWord s.fetchWord = .error (.unknownOpcode s.fetchWord) ∧
      t = s.raiseFault .unknownOpcode (some s.fetchWord)) ∨
    (∃ i, s.status = .running ∧ s.pcInRange = true ∧ decodeWord s.fetchWord = .ok i ∧ exec i s = .next t) := by
  unfold step at h
  cases hs : s.status with
  | faulted r => rw [hs] at h; exact .inl ⟨r, rfl, (Host.Outcome.next.inj h).symm⟩
  | awaitingKey x => rw [hs] at h; exact .inr (.inl ⟨x, rfl, (Host.Outcome.next.inj h).symm⟩)
  | running =>
    rw [hs] at h
    refine .inr (.inr ?_)
    cases hp : s.pcInRange with
    | false =>
      rw [State.fetchInstr_outOfRange hp] at h
      exact .inl ⟨rfl, rfl, (Host.Outcome.next.inj h).symm⟩
    | true =>
      rw [State.fetchInstr_inRange hp] at h
      cases hd : decodeWord s.fetchWord with
      | error r =>
        rw [hd] at h
        exact .inr (.inl ⟨rfl, rfl, by rw [decodeWord_error hd], (Host.Outcome.next.inj h).symm⟩)
      | ok i => rw [hd] at h; exact .inr (.inr ⟨i, rfl, rfl, rfl, h⟩)

/-! ## Poll -/

/-- The lowest press edge, if there is one (R804). -/
theorem State.lowestEdge_eq_some {s : State} {k : KeyIdx} (h : s.pressEdge k = true)
    (hl : ∀ j : KeyIdx, j < k → s.pressEdge j = false) : s.lowestEdge = some k := by
  unfold State.lowestEdge
  rw [List.find?_eq_some_iff_getElem]
  refine ⟨h, k.val, by simp, ?_, fun j hj => ?_⟩
  · simp [List.getElem_finRange]
  · rw [List.getElem_finRange]
    simpa using hl ⟨j, by omega⟩ hj

theorem State.lowestEdge_eq_none {s : State} (h : ∀ j : KeyIdx, s.pressEdge j = false) : s.lowestEdge = none := by
  unfold State.lowestEdge
  rw [List.find?_eq_none]
  intro j _
  simp [h j]

/-- Everything a poll can do (R804). -/
theorem State.poll_cases (s : State) (x : RegIdx) :
    s.poll x = s.setKprev s.keys ∨
    ∃ k : KeyIdx, s.poll x = (((s.setKprev s.keys).writeV x (BitVec.ofNat 8 k.val)).setStatus .running).advance := by
  unfold State.poll
  cases s.lowestEdge with
  | none => exact .inl rfl
  | some k => exact .inr ⟨k, rfl⟩

/-! ## Tick and ROM load -/

/-- A timer one tick later (R920). -/
theorem toNat_decay (t : Byte) : (decay t).toNat = t.toNat - 1 := by
  unfold decay
  split
  · rw [BitVec.toNat_ofNat]; have := t.isLt; omega
  · omega

/-- A tick changes the two timers, or nothing when the machine is faulted (R920, R923). -/
theorem State.tick_cases (s : State) :
    (∃ r, s.status = .faulted r) ∧ s.tick = (s, false) ∨
    (∀ r, s.status ≠ .faulted r) ∧ s.tick = ((s.setDT (decay s.dt)).setST (decay s.st), s.st == 1) := by
  unfold State.tick
  cases h : s.status with
  | faulted r => exact .inl ⟨⟨r, rfl⟩, rfl⟩
  | running => exact .inr ⟨by simp, rfl⟩
  | awaitingKey x => exact .inr ⟨by simp, rfl⟩

/-- A ROM that fits (R1011). -/
theorem State.loadRom_ok {s : State} {bytes : List Byte} (h : bytes.length ≤ 3232) :
    s.loadRom bytes =
      (s.setMem ((s.mem.writeBytes 0x200 (List.replicate 3232 0)).writeBytes 0x200 bytes), .ok) := by
  rw [State.loadRom, if_pos (show bytes.length ≤ Params.romCapacity from h)]
  rfl

/-- A ROM that does not (R1012). -/
theorem State.loadRom_tooLarge {s : State} {bytes : List Byte} (h : 3232 < bytes.length) :
    s.loadRom bytes = (s, .romTooLarge bytes.length 3232) := by
  rw [State.loadRom, if_neg (show ¬ bytes.length ≤ Params.romCapacity from by
    unfold Params.romCapacity Params.progHi Params.progLo; omega)]
  rfl

end Sys2Proof.Machine
end

