-- ==== Sys2Proof/Laws/Exec.lean ====
section
/-!
SUPPORT. What executing any instruction can do to `status` and to memory, and what a ROM load and a sprite can do: said once, for
the claims about steps, commands and runs.
-/
namespace Sys2Proof.Machine

/-- Executing an instruction takes one of its own faults, or keeps `status`, or begins the wait of `FX0A` (R803, R900, R901). -/
theorem exec_status {i : Instr} {s t : State} (h : exec i s = .next t) :
    (∃ c, t = s.raiseFault c (some (encode i)) ∧ i.mayRaise c = true) ∨ t.status = s.status ∨
    ∃ x, i = .ldKey x ∧ t.status = .awaitingKey x := by
  cases i
  case ret =>
    by_cases hp : 0 < s.sp.val
    · simp only [exec, execRet, State.pop_of_pos hp] at h
      cases Host.Outcome.next.inj h
      exact .inr (.inl rfl)
    · simp only [exec, execRet, State.pop_empty (by omega : s.sp.val = 0)] at h
      cases Host.Outcome.next.inj h
      exact .inl ⟨_, rfl, rfl⟩
  case call nnn =>
    by_cases hp : s.sp.val < 16
    · simp only [exec, execCall, State.push_of_lt hp] at h
      cases Host.Outcome.next.inj h
      exact .inr (.inl rfl)
    · simp only [exec, execCall, State.push_full (by omega : s.sp.val = 16)] at h
      cases Host.Outcome.next.inj h
      exact .inl ⟨_, rfl, rfl⟩
  case ldKey x =>
    cases Host.Outcome.next.inj h
    exact .inr (.inr ⟨x, rfl, rfl⟩)
  case drw x y n =>
    rcases State.unlessFault_cases h with ⟨_, rfl⟩ | ⟨c, hc, rfl⟩
    · exact .inr (.inl rfl)
    · exact .inl ⟨c, rfl, by rw [checkRead_cause hc]; rfl⟩
  case loadRegs x =>
    rcases State.unlessFault_cases h with ⟨_, rfl⟩ | ⟨c, hc, rfl⟩
    · exact .inr (.inl rfl)
    · exact .inl ⟨c, rfl, by rw [checkRead_cause hc]; rfl⟩
  case ldBcd x =>
    rcases State.unlessFault_cases h with ⟨_, rfl⟩ | ⟨c, hc, rfl⟩
    · exact .inr (.inl rfl)
    · exact .inl ⟨c, rfl, by rcases checkWrite_cause hc with e | e <;> rw [e] <;> rfl⟩
  case storeRegs x =>
    rcases State.unlessFault_cases h with ⟨_, rfl⟩ | ⟨c, hc, rfl⟩
    · exact .inr (.inl rfl)
    · exact .inl ⟨c, rfl, by rcases checkWrite_cause hc with e | e <;> rw [e] <;> rfl⟩
  case ldFont x =>
    rcases State.unlessFault_cases h with ⟨_, rfl⟩ | ⟨c, hc, rfl⟩
    · exact .inr (.inl rfl)
    · refine .inl ⟨c, rfl, ?_⟩
      unfold checkFontDigit at hc
      split at hc
      · rw [← Option.some.inj hc]; rfl
      · exact absurd hc (by simp)
  case skp x =>
    rcases State.unlessFault_cases h with ⟨_, rfl⟩ | ⟨c, hc, rfl⟩
    · exact .inr (.inl rfl)
    · refine .inl ⟨c, rfl, ?_⟩
      unfold checkKeyIndex at hc
      split at hc
      · rw [← Option.some.inj hc]; rfl
      · exact absurd hc (by simp)
  case sknp x =>
    rcases State.unlessFault_cases h with ⟨_, rfl⟩ | ⟨c, hc, rfl⟩
    · exact .inr (.inl rfl)
    · refine .inl ⟨c, rfl, ?_⟩
      unfold checkKeyIndex at hc
      split at hc
      · rw [← Option.some.inj hc]; rfl
      · exact absurd hc (by simp)
  all_goals
    cases Host.Outcome.next.inj h
    exact .inr (.inl rfl)

@[simp] theorem State.length_regsUpTo (s : State) (x : RegIdx) : (s.regsUpTo x).length = x.val + 1 := by
  simp [State.regsUpTo]

/-- `V[k]`, the `k`-th byte that `FX55` stores (R704). -/
theorem State.getElem_regsUpTo (s : State) (x : RegIdx) {k : Nat} (hk : k < (s.regsUpTo x).length) :
    (s.regsUpTo x)[k] = s.readV ⟨k, by rw [State.length_regsUpTo] at hk; omega⟩ := by
  simp [State.regsUpTo, State.readV]

/-- Executing an instruction leaves memory, or stores its `storeLen` bytes from `I` on, inside 0x200..0xFFF (R210, R222). -/
theorem exec_memory {i : Instr} {s t : State} (h : exec i s = .next t) :
    t.mem = s.mem ∨ ∃ bs : List Byte, t.mem = s.mem.writeBytes s.i.toNat bs ∧ bs.length = i.storeLen ∧ 0x200 ≤ s.i.toNat ∧
      s.i.toNat + bs.length ≤ 4096 := by
  cases i
  case ret =>
    by_cases hp : 0 < s.sp.val
    · simp only [exec, execRet, State.pop_of_pos hp] at h
      cases Host.Outcome.next.inj h
      exact .inl rfl
    · simp only [exec, execRet, State.pop_empty (by omega : s.sp.val = 0)] at h
      cases Host.Outcome.next.inj h
      exact .inl rfl
  case call nnn =>
    by_cases hp : s.sp.val < 16
    · simp only [exec, execCall, State.push_of_lt hp] at h
      cases Host.Outcome.next.inj h
      exact .inl rfl
    · simp only [exec, execCall, State.push_full (by omega : s.sp.val = 16)] at h
      cases Host.Outcome.next.inj h
      exact .inl rfl
  case ldBcd x =>
    rcases State.unlessFault_cases h with ⟨hc, rfl⟩ | ⟨c, hc, rfl⟩
    · obtain ⟨h1, h2⟩ := (checkWrite_eq_none_iff _ (by omega)).mp hc
      exact .inr ⟨_, rfl, rfl, h1, h2⟩
    · exact .inl rfl
  case storeRegs x =>
    rcases State.unlessFault_cases h with ⟨hc, rfl⟩ | ⟨c, hc, rfl⟩
    · obtain ⟨h1, h2⟩ := (checkWrite_eq_none_iff _ (by omega)).mp hc
      exact .inr ⟨_, rfl, State.length_regsUpTo s x, h1, by rw [State.length_regsUpTo]; exact h2⟩
    · exact .inl rfl
  case drw => rcases State.unlessFault_cases h with ⟨_, rfl⟩ | ⟨_, _, rfl⟩ <;> exact .inl rfl
  case loadRegs => rcases State.unlessFault_cases h with ⟨_, rfl⟩ | ⟨_, _, rfl⟩ <;> exact .inl rfl
  case ldFont => rcases State.unlessFault_cases h with ⟨_, rfl⟩ | ⟨_, _, rfl⟩ <;> exact .inl rfl
  case skp => rcases State.unlessFault_cases h with ⟨_, rfl⟩ | ⟨_, _, rfl⟩ <;> exact .inl rfl
  case sknp => rcases State.unlessFault_cases h with ⟨_, rfl⟩ | ⟨_, _, rfl⟩ <;> exact .inl rfl
  all_goals
    cases Host.Outcome.next.inj h
    exact .inl rfl

/-- The memory a ROM load that fits leaves: canonical, and unchanged outside the program region (R1011, R1013). -/
theorem Memory.romLoad (m : Memory) {bytes : List Byte} (hl : bytes.length ≤ 3232) :
    (m.wf = true → ((m.writeBytes 0x200 (List.replicate 3232 0)).writeBytes 0x200 bytes).wf = true) ∧
    ∀ q : Nat, q < 0x200 ∨ 0xE9F < q →
      ((m.writeBytes 0x200 (List.replicate 3232 0)).writeBytes 0x200 bytes).read q = m.read q := by
  have hz : (List.replicate 3232 (0 : Byte)).length = 3232 := List.length_replicate ..
  refine ⟨fun hm => ?_, fun q hq => ?_⟩
  · exact Memory.wf_writeBytes _ (Memory.wf_writeBytes _ hm (by rw [hz, Params.memLast]; omega)) (by rw [Params.memLast]; omega)
  · rw [Memory.read_writeBytes_other _ _ _ (by omega), Memory.read_writeBytes_other _ _ _ (by rw [hz]; omega)]

/-- What a sprite of at most 15 rows draws, under either edge policy: the pixels its set bits fall on flip, every other pixel
stays, and it collides iff one of them was set (R402, R405). -/
theorem State.drawn_spec (p : EdgePolicy) (x y : RegIdx) {n : Nat} (s : State) (hn : n ≤ 15) :
    ∃ hits : List (Fin 64 × Fin 32),
      (∀ q, q ∈ hits ↔ ∃ row col : Nat, row < n ∧ col < 8 ∧ (s.readByte (s.i.toNat + row)).getLsbD (7 - col) = true ∧
        spritePixel p (s.readV x).toNat (s.readV y).toNat col row = some q) ∧
      (∀ (px : Fin 64) (py : Fin 32), (s.drawn p x y n).fb[py][px] = if (px, py) ∈ hits then !s.pixel px py else s.pixel px py) ∧
      ((s.drawn p x y n).collision = true ↔ ∃ q ∈ hits, s.pixel q.1 q.2 = true) := by
  have hd : (spriteHits p (s.readV x).toNat (s.readV y).toNat 0 (s.mem.readBytes s.i.toNat n)).Nodup :=
    nodup_spriteHits (by rw [Memory.length_readBytes]; omega)
  refine ⟨spriteHits p (s.readV x).toNat (s.readV y).toNat 0 (s.mem.readBytes s.i.toNat n), fun q => ?_, ?_, ?_⟩
  · rw [mem_spriteHits]
    constructor
    · rintro ⟨k, hk, col, hc, hb, hq⟩
      rw [Memory.getElem_readBytes] at hb
      exact ⟨k, col, by simpa using hk, hc, hb, by simpa using hq⟩
    · rintro ⟨k, col, hk, hc, hb, hq⟩
      exact ⟨k, by simpa using hk, col, hc, by rw [Memory.getElem_readBytes]; exact hb, by simpa using hq⟩
  · rw [State.drawn, drawRows_eq_foldl]
    exact (foldl_flip hd _).1
  · rw [State.drawn, drawRows_eq_foldl, (foldl_flip hd _).2]
    exact or_iff_right Bool.false_ne_true

end Sys2Proof.Machine
end

