-- ==== Sys2Proof/Laws/PerInstr.lean ====
section
/-!
SUPPORT. Per-instruction families of LAWS.json. `EncodesItsRow`: the word an instruction encodes to satisfies the mask and match
that spec/30_encoding.md R309 prints for its row.
-/
namespace Sys2Proof.Laws

/-- `opcode & mask == match`, for the row of R309 that the instruction stands for. -/
def EncodesItsRow.Statement (i : Instr) : Prop := i.row.selects (encode i) = true

theorem EncodesItsRow.of_eq {i : Instr} (h : encode i &&& i.row.mask = i.row.pattern) : EncodesItsRow.Statement i := by
  simp [EncodesItsRow.Statement, OpcodeRow.selects, h]

theorem EncodesItsRow.cls : EncodesItsRow.Statement .cls := EncodesItsRow.of_eq rfl
theorem EncodesItsRow.ret : EncodesItsRow.Statement .ret := EncodesItsRow.of_eq rfl
theorem EncodesItsRow.jp (nnn : Addr12) : EncodesItsRow.Statement (.jp nnn) := EncodesItsRow.of_eq (formNNN_mask_family _ _)
theorem EncodesItsRow.call (nnn : Addr12) : EncodesItsRow.Statement (.call nnn) := EncodesItsRow.of_eq (formNNN_mask_family _ _)
theorem EncodesItsRow.seImm (x : RegIdx) (nn : Byte) : EncodesItsRow.Statement (.seImm x nn) := EncodesItsRow.of_eq (formXNN_mask_family _ _ _)
theorem EncodesItsRow.sneImm (x : RegIdx) (nn : Byte) : EncodesItsRow.Statement (.sneImm x nn) := EncodesItsRow.of_eq (formXNN_mask_family _ _ _)
theorem EncodesItsRow.seReg (x : RegIdx) (y : RegIdx) : EncodesItsRow.Statement (.seReg x y) := EncodesItsRow.of_eq (formXYN_mask_nibble _ _ _ _)
theorem EncodesItsRow.ldImm (x : RegIdx) (nn : Byte) : EncodesItsRow.Statement (.ldImm x nn) := EncodesItsRow.of_eq (formXNN_mask_family _ _ _)
theorem EncodesItsRow.addImm (x : RegIdx) (nn : Byte) : EncodesItsRow.Statement (.addImm x nn) := EncodesItsRow.of_eq (formXNN_mask_family _ _ _)
theorem EncodesItsRow.ldReg (x : RegIdx) (y : RegIdx) : EncodesItsRow.Statement (.ldReg x y) := EncodesItsRow.of_eq (formXYN_mask_nibble _ _ _ _)
theorem EncodesItsRow.orReg (x : RegIdx) (y : RegIdx) : EncodesItsRow.Statement (.orReg x y) := EncodesItsRow.of_eq (formXYN_mask_nibble _ _ _ _)
theorem EncodesItsRow.andReg (x : RegIdx) (y : RegIdx) : EncodesItsRow.Statement (.andReg x y) := EncodesItsRow.of_eq (formXYN_mask_nibble _ _ _ _)
theorem EncodesItsRow.xorReg (x : RegIdx) (y : RegIdx) : EncodesItsRow.Statement (.xorReg x y) := EncodesItsRow.of_eq (formXYN_mask_nibble _ _ _ _)
theorem EncodesItsRow.addReg (x : RegIdx) (y : RegIdx) : EncodesItsRow.Statement (.addReg x y) := EncodesItsRow.of_eq (formXYN_mask_nibble _ _ _ _)
theorem EncodesItsRow.subReg (x : RegIdx) (y : RegIdx) : EncodesItsRow.Statement (.subReg x y) := EncodesItsRow.of_eq (formXYN_mask_nibble _ _ _ _)
theorem EncodesItsRow.shr (x : RegIdx) (y : RegIdx) : EncodesItsRow.Statement (.shr x y) := EncodesItsRow.of_eq (formXYN_mask_nibble _ _ _ _)
theorem EncodesItsRow.subn (x : RegIdx) (y : RegIdx) : EncodesItsRow.Statement (.subn x y) := EncodesItsRow.of_eq (formXYN_mask_nibble _ _ _ _)
theorem EncodesItsRow.shl (x : RegIdx) (y : RegIdx) : EncodesItsRow.Statement (.shl x y) := EncodesItsRow.of_eq (formXYN_mask_nibble _ _ _ _)
theorem EncodesItsRow.sneReg (x : RegIdx) (y : RegIdx) : EncodesItsRow.Statement (.sneReg x y) := EncodesItsRow.of_eq (formXYN_mask_nibble _ _ _ _)
theorem EncodesItsRow.ldI (nnn : Addr12) : EncodesItsRow.Statement (.ldI nnn) := EncodesItsRow.of_eq (formNNN_mask_family _ _)
theorem EncodesItsRow.jpV0 (nnn : Addr12) : EncodesItsRow.Statement (.jpV0 nnn) := EncodesItsRow.of_eq (formNNN_mask_family _ _)
theorem EncodesItsRow.rnd (x : RegIdx) (nn : Byte) : EncodesItsRow.Statement (.rnd x nn) := EncodesItsRow.of_eq (formXNN_mask_family _ _ _)
theorem EncodesItsRow.drw (x : RegIdx) (y : RegIdx) (n : Nat) : EncodesItsRow.Statement (.drw x y n) := EncodesItsRow.of_eq (formXYN_mask_family _ _ _ _)
theorem EncodesItsRow.skp (x : RegIdx) : EncodesItsRow.Statement (.skp x) := EncodesItsRow.of_eq (formXNN_mask_low _ _ _)
theorem EncodesItsRow.sknp (x : RegIdx) : EncodesItsRow.Statement (.sknp x) := EncodesItsRow.of_eq (formXNN_mask_low _ _ _)
theorem EncodesItsRow.ldFromDT (x : RegIdx) : EncodesItsRow.Statement (.ldFromDT x) := EncodesItsRow.of_eq (formXNN_mask_low _ _ _)
theorem EncodesItsRow.ldKey (x : RegIdx) : EncodesItsRow.Statement (.ldKey x) := EncodesItsRow.of_eq (formXNN_mask_low _ _ _)
theorem EncodesItsRow.ldToDT (x : RegIdx) : EncodesItsRow.Statement (.ldToDT x) := EncodesItsRow.of_eq (formXNN_mask_low _ _ _)
theorem EncodesItsRow.ldToST (x : RegIdx) : EncodesItsRow.Statement (.ldToST x) := EncodesItsRow.of_eq (formXNN_mask_low _ _ _)
theorem EncodesItsRow.addI (x : RegIdx) : EncodesItsRow.Statement (.addI x) := EncodesItsRow.of_eq (formXNN_mask_low _ _ _)
theorem EncodesItsRow.ldFont (x : RegIdx) : EncodesItsRow.Statement (.ldFont x) := EncodesItsRow.of_eq (formXNN_mask_low _ _ _)
theorem EncodesItsRow.ldBcd (x : RegIdx) : EncodesItsRow.Statement (.ldBcd x) := EncodesItsRow.of_eq (formXNN_mask_low _ _ _)
theorem EncodesItsRow.storeRegs (x : RegIdx) : EncodesItsRow.Statement (.storeRegs x) := EncodesItsRow.of_eq (formXNN_mask_low _ _ _)
theorem EncodesItsRow.loadRegs (x : RegIdx) : EncodesItsRow.Statement (.loadRegs x) := EncodesItsRow.of_eq (formXNN_mask_low _ _ _)

end Sys2Proof.Laws
end

