-- ==== Sys2Proof/Machine/Assembler.lean ====
section
/-!
DEFINITION. How the spec writes instructions: the format letters of spec/30_encoding.md R302 and the assembler syntax of R315.
"Syntax has no meaning for the hardware; only encodings do": nothing of the machine uses this file.
-/
namespace Sys2Proof

/-- The format letters (R302). -/
inductive Format where
  /-- all 16 bits fixed -/
  | F0
  /-- `T`, `NNN` -/
  | FA
  /-- `T`, `X`, `NN` -/
  | FXB
  /-- `T`, `X`, `Y`, `N` fixed or sub-opcode -/
  | FXY
  /-- `T`, `X`, `Y`, `N` immediate -/
  | FXYN
  /-- `T`, `X`, `NN` sub-opcode -/
  | FXS
deriving DecidableEq, Repr

/-- The format of each form, as spec/opcode_table.json gives it (R302). -/
def Instr.format : Instr → Format
  | .cls | .ret => .F0
  | .jp _ | .call _ | .ldI _ | .jpV0 _ => .FA
  | .seImm _ _ | .sneImm _ _ | .ldImm _ _ | .addImm _ _ | .rnd _ _ => .FXB
  | .seReg _ _ | .sneReg _ _ | .ldReg _ _ | .orReg _ _ | .andReg _ _ | .xorReg _ _ | .addReg _ _ | .subReg _ _ | .shr _ _
  | .subn _ _ | .shl _ _ => .FXY
  | .drw _ _ _ => .FXYN
  | .skp _ | .sknp _ | .ldFromDT _ | .ldKey _ | .ldToDT _ | .ldToST _ | .addI _ | .ldFont _ | .ldBcd _ | .storeRegs _
  | .loadRegs _ => .FXS

/-- One hexadecimal digit. -/
def hexDigit (n : Nat) : String :=
  ["0", "1", "2", "3", "4", "5", "6", "7", "8", "9", "A", "B", "C", "D", "E", "F"].getD n "0"

/-- `VX` is written `V0` to `VF` (R315). -/
def regText (x : RegIdx) : String := "V" ++ hexDigit x.val

/-- `NN` as a hexadecimal number (R315). -/
def byteText (b : Byte) : String := "0x" ++ hexDigit (b.toNat / 16) ++ hexDigit (b.toNat % 16)

/-- `NNN` as a hexadecimal number (R315). -/
def addrText (a : Addr12) : String :=
  "0x" ++ hexDigit (a.toNat / 256) ++ hexDigit (a.toNat / 16 % 16) ++ hexDigit (a.toNat % 16)

/-- `N` as a number 0 to 15 (R315). -/
def rowsText (n : Nat) : String :=
  ["0", "1", "2", "3", "4", "5", "6", "7", "8", "9", "10", "11", "12", "13", "14", "15"].getD n "0"

/-- "the mnemonic, a space, then operands separated by `, `", as the syntax column of R309 has them (R315). -/
def Instr.assembly : Instr → String
  | .cls => "CLS"
  | .ret => "RET"
  | .jp nnn => "JP " ++ addrText nnn
  | .call nnn => "CALL " ++ addrText nnn
  | .seImm x nn => "SE " ++ regText x ++ ", " ++ byteText nn
  | .sneImm x nn => "SNE " ++ regText x ++ ", " ++ byteText nn
  | .seReg x y => "SE " ++ regText x ++ ", " ++ regText y
  | .ldImm x nn => "LD " ++ regText x ++ ", " ++ byteText nn
  | .addImm x nn => "ADD " ++ regText x ++ ", " ++ byteText nn
  | .ldReg x y => "LD " ++ regText x ++ ", " ++ regText y
  | .orReg x y => "OR " ++ regText x ++ ", " ++ regText y
  | .andReg x y => "AND " ++ regText x ++ ", " ++ regText y
  | .xorReg x y => "XOR " ++ regText x ++ ", " ++ regText y
  | .addReg x y => "ADD " ++ regText x ++ ", " ++ regText y
  | .subReg x y => "SUB " ++ regText x ++ ", " ++ regText y
  | .shr x y => "SHR " ++ regText x ++ ", " ++ regText y
  | .subn x y => "SUBN " ++ regText x ++ ", " ++ regText y
  | .shl x y => "SHL " ++ regText x ++ ", " ++ regText y
  | .sneReg x y => "SNE " ++ regText x ++ ", " ++ regText y
  | .ldI nnn => "LD I, " ++ addrText nnn
  | .jpV0 nnn => "JP V0, " ++ addrText nnn
  | .rnd x nn => "RND " ++ regText x ++ ", " ++ byteText nn
  | .drw x y n => "DRW " ++ regText x ++ ", " ++ regText y ++ ", " ++ rowsText n
  | .skp x => "SKP " ++ regText x
  | .sknp x => "SKNP " ++ regText x
  | .ldFromDT x => "LD " ++ regText x ++ ", DT"
  | .ldKey x => "LD " ++ regText x ++ ", K"
  | .ldToDT x => "LD DT, " ++ regText x
  | .ldToST x => "LD ST, " ++ regText x
  | .addI x => "ADD I, " ++ regText x
  | .ldFont x => "LD F, " ++ regText x
  | .ldBcd x => "LD B, " ++ regText x
  | .storeRegs x => "LD [I], " ++ regText x
  | .loadRegs x => "LD " ++ regText x ++ ", [I]"

end Sys2Proof
end

