-- ==== Sys2Proof/Tests/Slice0.lean ====
section
/-!
SUPPORT. The model's own tests. Expected values are the spec's: the encodings of spec/30_encoding.md R309, the examples of the
instruction rules, and the vectors of spec/95_test_vectors.md, named in each comment. After them, for every obligation that has
hypotheses, a theorem `witness_<Name>` shows concrete states and operands that meet them, at the boundaries of each clause.
-/
namespace Sys2Proof.Tests

open Sys2Proof Sys2Proof.Machine

/-! ## Well-formedness: the one check, and a term it refuses -/

theorem test_wellFormed_refuses_sixteen_rows : (Instr.drw 0x1 0x2 16).wellFormed = false := by decide
theorem test_wellFormed_accepts_fifteen_rows : (Instr.drw 0x1 0x2 15).wellFormed = true := by decide

/-! ## Decoding: a word for every constructor, its fields written bit by bit as R302 and R309 lay them out -/

theorem test_decode_family0 :
    decodeWord 0b0000_0000_1110_0000#16 = .ok .cls ∧ decodeWord 0b0000_0000_1110_1110#16 = .ok .ret := by decide

theorem test_decode_addresses :
    decodeWord 0b0001_0010_0011_0100#16 = .ok (.jp 0x234) ∧ decodeWord 0b0010_1010_1011_1100#16 = .ok (.call 0xABC) ∧
    decodeWord 0b1010_0010_1111_0000#16 = .ok (.ldI 0x2F0) ∧ decodeWord 0b1011_0011_0000_0001#16 = .ok (.jpV0 0x301) := by decide

theorem test_decode_immediates :
    decodeWord 0b0011_1010_0101_1100#16 = .ok (.seImm 0xA 0x5C) ∧ decodeWord 0b0100_0010_0001_0001#16 = .ok (.sneImm 0x2 0x11) ∧
    decodeWord 0b0110_1010_0100_0010#16 = .ok (.ldImm 0xA 0x42) ∧ decodeWord 0b0111_0011_0010_0000#16 = .ok (.addImm 0x3 0x20) ∧
    decodeWord 0b1100_0011_0000_1111#16 = .ok (.rnd 0x3 0x0F) := by decide

theorem test_decode_register_skips :
    decodeWord 0b0101_0001_0010_0000#16 = .ok (.seReg 0x1 0x2) ∧ decodeWord 0b1001_0001_0010_0000#16 = .ok (.sneReg 0x1 0x2) := by
  decide

theorem test_decode_family8_moves_and_logic :
    decodeWord 0b1000_0011_1100_0000#16 = .ok (.ldReg 0x3 0xC) ∧ decodeWord 0b1000_0011_1100_0001#16 = .ok (.orReg 0x3 0xC) ∧
    decodeWord 0b1000_0011_1100_0010#16 = .ok (.andReg 0x3 0xC) ∧ decodeWord 0b1000_0011_1100_0011#16 = .ok (.xorReg 0x3 0xC) := by
  decide

theorem test_decode_family8_arithmetic :
    decodeWord 0b1000_0011_1100_0100#16 = .ok (.addReg 0x3 0xC) ∧ decodeWord 0b1000_0011_1100_0101#16 = .ok (.subReg 0x3 0xC) ∧
    decodeWord 0b1000_0011_1100_0110#16 = .ok (.shr 0x3 0xC) ∧ decodeWord 0b1000_0011_1100_0111#16 = .ok (.subn 0x3 0xC) ∧
    decodeWord 0b1000_0011_1100_1110#16 = .ok (.shl 0x3 0xC) := by decide

theorem test_decode_draw :
    decodeWord 0b1101_0101_1010_1111#16 = .ok (.drw 0x5 0xA 15) ∧ decodeWord 0b1101_0001_0000_0000#16 = .ok (.drw 0x1 0x0 0) := by
  decide

theorem test_decode_keys :
    decodeWord 0b1110_0101_1001_1110#16 = .ok (.skp 0x5) ∧ decodeWord 0b1110_0101_1010_0001#16 = .ok (.sknp 0x5) := by decide

theorem test_decode_familyF_timers :
    decodeWord 0b1111_0011_0000_0111#16 = .ok (.ldFromDT 0x3) ∧ decodeWord 0b1111_0011_0000_1010#16 = .ok (.ldKey 0x3) ∧
    decodeWord 0b1111_0011_0001_0101#16 = .ok (.ldToDT 0x3) ∧ decodeWord 0b1111_0011_0001_1000#16 = .ok (.ldToST 0x3) := by decide

theorem test_decode_familyF_index :
    decodeWord 0b1111_0001_0001_1110#16 = .ok (.addI 0x1) ∧ decodeWord 0b1111_0100_0010_1001#16 = .ok (.ldFont 0x4) ∧
    decodeWord 0b1111_0000_0011_0011#16 = .ok (.ldBcd 0x0) ∧ decodeWord 0b1111_0010_0101_0101#16 = .ok (.storeRegs 0x2) ∧
    decodeWord 0b1111_0010_0110_0101#16 = .ok (.loadRegs 0x2) := by decide

/-- Vectors L1.8, S8, A33: unknown words of every family of R310. -/
theorem test_decode_unknown :
    [0x0000#16, 0x0123#16, 0x00E1#16, 0x00FF#16, 0x5121#16, 0x8008#16, 0x800F#16, 0x900F#16, 0xE000#16, 0xE0A0#16, 0xF000#16,
      0xF0FF#16, 0xFFFF#16].all (fun w => decide (decodeWord w = .error (.unknownOpcode w))) = true := by decide

/-- The first byte is the high byte (R230, R301), and what follows the two bytes is left; one byte is no instruction (R300). -/
theorem test_decode_bytes :
    decode [0x12, 0x34, 0x56] = .ok (.jp 0x234, [0x56]) ∧ decode [0x12] = .error .fewerThanTwoBytes ∧
    decode [] = .error .fewerThanTwoBytes := by decide

/-- The host's entry, on words of spec/opcode_table.json. -/
theorem test_decodeTableWord :
    decodeTableWord 16 0x00E0 = some .cls ∧ decodeTableWord 16 0xDAB7 = some (.drw 0xA 0xB 7) ∧ decodeTableWord 16 0x5121 = none := by
  decide

/-- The syntax of programs P1, P2 and P3 of spec/95_test_vectors.md L3 (R315). -/
theorem test_assembly :
    (decodeTableWord 16 0x6005).map Instr.assembly = some "LD V0, 0x05" ∧
    (decodeTableWord 16 0xF265).map Instr.assembly = some "LD V2, [I]" ∧
    (decodeTableWord 16 0xD012).map Instr.assembly = some "DRW V0, V1, 2" ∧
    (decodeTableWord 16 0x2210).map Instr.assembly = some "CALL 0x210" ∧ (Instr.drw 0 1 2).format = .FXYN := by decide

/-! ## Helpers: a state after reset with some registers set, its memory, and one step -/

/-- The reset state with the listed registers set. -/
def withRegs (rs : List (RegIdx × Byte)) : State := rs.foldl (fun s r => s.writeV r.1 r.2) State.reset

/-- The listed registers set, `I` at `a` and the bytes `bs` there. -/
def withData (rs : List (RegIdx × Byte)) (a : Word) (bs : List Byte) : State :=
  let s := (withRegs rs).setI a
  s.setMem (s.mem.writeBytes a.toNat bs)

/-- The reset state with the word `w` placed where it fetches. -/
def placed (w : Nat) : State := State.reset.withFetchWord 16 w

/-- What `f` sees of the state after a step, if there is one. -/
def look {α : Type} (r : Result) (f : State → α) : Option α :=
  match r with
  | .next t => some (f t)
  | .fault _ => none
  | .refused _ => none

/-- One step of the word `w` placed at the `pc` of `s`. -/
def run {α : Type} (w : Nat) (s : State) (f : State → α) : Option α := look (step (s.withFetchWord 16 w)) f

/-- The fault record of BoundsFault at pc 0x200. -/
def bounds (k : BoundsFaultKind) (opcode : Word) : Status := .faulted ⟨.boundsFault k, 0x200, some opcode⟩

/-! ## Control flow (vectors L1.4, C1 to C18) -/

theorem test_call : run 0x2300 State.reset (fun t => (t.pc, t.sp, t.stack[0])) = some (0x300, 1, 0x202) := by decide
theorem test_call_sixteenth_and_overflow :
    run 0x2300 { State.reset with sp := 15 } (fun t => (t.pc, t.sp, t.stack[15])) = some (0x300, 16, 0x202) ∧
    run 0x2300 { State.reset with sp := 16 } (fun t => (t.pc, t.sp, t.status)) =
      some (0x200, 16, .faulted ⟨.stackFault .overflow, 0x200, some 0x2300⟩) := by decide
theorem test_ret :
    run 0x00EE { State.reset with sp := 1, stack := State.reset.stack.set 0 0x20A } (fun t => (t.pc, t.sp, t.stack[0])) =
      some (0x20A, 0, 0x20A) := by decide
theorem test_ret_underflow :
    run 0x00EE State.reset (fun t => (t.pc, t.status)) =
      some (0x200, .faulted ⟨.stackFault .underflow, 0x200, some 0x00EE⟩) := by decide
theorem test_jp_itself_and_below :
    run 0x1200 State.reset (fun t => t.pc) = some 0x200 ∧ run 0x1100 State.reset (fun t => (t.pc, t.status)) = some (0x100, .running) := by
  decide
theorem test_jpV0 :
    run 0xBFFF (withRegs [(0, 0xFF)]) (fun t => t.pc) = some 0x10FE ∧ run 0xB500 (withRegs [(5, 0x44)]) (fun t => t.pc) = some 0x500 := by
  decide
theorem test_seImm :
    run 0x3210 (withRegs [(2, 0x10)]) (fun t => t.pc) = some 0x204 ∧ run 0x3211 (withRegs [(2, 0x10)]) (fun t => t.pc) = some 0x202 := by
  decide
theorem test_sneImm :
    run 0x4210 (withRegs [(2, 0x10)]) (fun t => t.pc) = some 0x202 ∧ run 0x4211 (withRegs [(2, 0x10)]) (fun t => t.pc) = some 0x204 := by
  decide
theorem test_seReg :
    run 0x5120 (withRegs [(1, 7), (2, 7)]) (fun t => t.pc) = some 0x204 ∧
    run 0x5120 (withRegs [(1, 7), (2, 8)]) (fun t => t.pc) = some 0x202 := by decide
theorem test_sneReg :
    run 0x9120 (withRegs [(1, 7), (2, 8)]) (fun t => t.pc) = some 0x204 ∧ run 0x9330 (withRegs [(3, 9)]) (fun t => t.pc) = some 0x202 := by
  decide

/-! ## Register file and ALU (vectors A1 to A32) -/

theorem test_ldImm : run 0x6A42 State.reset (fun t => (t.readV 0xA, t.pc)) = some (0x42, 0x202) := by decide
theorem test_addImm :
    run 0x7001 (withRegs [(0, 0xFF), (VF, 0x55)]) (fun t => (t.readV 0, t.readV VF)) = some (0x00, 0x55) ∧
    run 0x73FF (withRegs [(3, 0x10)]) (fun t => t.readV 3) = some 0x0F := by decide
theorem test_ldReg : run 0x8F10 (withRegs [(1, 0x33), (VF, 0x55)]) (fun t => t.readV VF) = some 0x33 := by decide
theorem test_orReg :
    run 0x8011 (withRegs [(0, 0x0F), (1, 0xF0), (VF, 0x55)]) (fun t => (t.readV 0, t.readV VF)) = some (0xFF, 0x55) := by decide
theorem test_andReg :
    run 0x8012 (withRegs [(0, 0x3C), (1, 0x0F), (VF, 0x55)]) (fun t => (t.readV 0, t.readV VF)) = some (0x0C, 0x55) := by decide
theorem test_xorReg :
    run 0x8013 (withRegs [(0, 0x3C), (1, 0x0F), (VF, 0x55)]) (fun t => (t.readV 0, t.readV VF)) = some (0x33, 0x55) := by decide
theorem test_addReg :
    run 0x8014 (withRegs [(0, 0xFF), (1, 0x01)]) (fun t => (t.readV 0, t.readV VF, t.readV 1)) = some (0x00, 1, 0x01) := by decide
theorem test_addReg_with_VF :
    run 0x8F14 (withRegs [(VF, 0xFF), (1, 0x01)]) (fun t => t.readV VF) = some 1 ∧
    run 0x80F4 (withRegs [(0, 0x10), (VF, 0x01)]) (fun t => (t.readV 0, t.readV VF)) = some (0x11, 0) := by decide
theorem test_subReg :
    run 0x8015 (withRegs [(0, 0x05), (1, 0x0A)]) (fun t => (t.readV 0, t.readV VF)) = some (0xFB, 0) ∧
    run 0x8015 (withRegs [(0, 0x42), (1, 0x42)]) (fun t => (t.readV 0, t.readV VF)) = some (0x00, 1) := by decide
theorem test_subReg_into_VF : run 0x8F15 (withRegs [(VF, 0x05), (1, 0x0A)]) (fun t => t.readV VF) = some 0 := by decide
theorem test_subn :
    run 0x8017 (withRegs [(0, 0x05), (1, 0x0A)]) (fun t => (t.readV 0, t.readV VF)) = some (0x05, 1) ∧
    run 0x8017 (withRegs [(0, 0x0A), (1, 0x05)]) (fun t => (t.readV 0, t.readV VF)) = some (0xFB, 0) := by decide
theorem test_shr :
    run 0x8016 (withRegs [(0, 0xFE), (1, 0x01)]) (fun t => (t.readV 0, t.readV VF)) = some (0x7F, 0) ∧
    run 0x8F06 (withRegs [(VF, 0x03)]) (fun t => t.readV VF) = some 1 := by decide
theorem test_shl :
    run 0x801E (withRegs [(0, 0x7F), (1, 0xFF)]) (fun t => (t.readV 0, t.readV VF)) = some (0xFE, 0) ∧
    run 0x800E (withRegs [(0, 0x80)]) (fun t => (t.readV 0, t.readV VF)) = some (0x00, 1) := by decide
/-- Vector A30: `NN = 0` gives 0 whatever the random byte. -/
theorem test_rnd_masked : run 0xC000 (withRegs [(0, 0x77)]) (fun t => t.readV 0) = some 0x00 := by
  show some (Config.randomByte 0 &&& 0x00#8) = some 0x00#8
  rw [BitVec.and_zero]
theorem test_rnd_draws_once : run 0xC3FF State.reset (fun t => (t.pc, t.rndDraws)) = some (0x202, 1) := by decide

/-! ## Address register and memory (vectors M1 to M23) -/

theorem test_ldI : run 0xA123 State.reset (fun t => (t.i, t.pc)) = some (0x123, 0x202) := by decide
theorem test_addI :
    run 0xF01E ((withRegs [(0, 0x01), (VF, 0x55)]).setI 0xFFF) (fun t => (t.i, t.readV VF)) = some (0x1000, 0x55) ∧
    run 0xF01E ((withRegs [(0, 0x02)]).setI 0xFFFF) (fun t => t.i) = some 0x0001 := by decide
theorem test_ldFont :
    run 0xF029 (withRegs [(0, 0xA)]) (fun t => t.i) = some 0x032 ∧ run 0xF029 (withRegs [(0, 0xF)]) (fun t => t.i) = some 0x04B := by decide
theorem test_ldFont_above_digits :
    run 0xF029 ((withRegs [(0, 0x10)]).setI 0x123) (fun t => (t.i, t.status)) = some (0x123, bounds (.fontDigit 0x10) 0xF029) := by decide
theorem test_ldBcd :
    run 0xF033 ((withRegs [(0, 123)]).setI 0x300) (fun t => t.mem.readBytes 0x300 3) = some [1, 2, 3] ∧
    run 0xF033 ((withRegs [(0, 255)]).setI 0xFFD) (fun t => t.mem.readBytes 0xFFD 3) = some [2, 5, 5] := by decide
theorem test_ldBcd_faults :
    run 0xF033 ((withRegs [(0, 9)]).setI 0xFFE) (fun t => t.status) = some (bounds (.writeOutOfRange 0xFFE 3) 0xF033) ∧
    run 0xF033 ((withRegs [(0, 9)]).setI 0x1FF) (fun t => (t.status, t.readByte 0x201)) =
      some (bounds (.writeProtected 0x1FF 3) 0xF033, 0x33) := by decide
theorem test_storeRegs :
    run 0xF255 ((withRegs [(0, 1), (1, 2), (2, 3), (3, 9)]).setI 0x400) (fun t => (t.mem.readBytes 0x400 4, t.i)) =
      some ([1, 2, 3, 0], 0x400) := by decide
theorem test_storeRegs_faults :
    run 0xFF55 (State.reset.setI 0xFF1) (fun t => t.status) = some (bounds (.writeOutOfRange 0xFF1 16) 0xFF55) ∧
    run 0xF055 (State.reset.setI 0x1FF) (fun t => t.status) = some (bounds (.writeProtected 0x1FF 1) 0xF055) := by decide
theorem test_loadRegs :
    run 0xF265 (withData [(3, 9)] 0x400 [1, 2, 3]) (fun t => (t.readV 0, t.readV 1, t.readV 2, t.readV 3, t.i)) =
      some (1, 2, 3, 9, 0x400) := by decide
theorem test_loadRegs_faults :
    run 0xFF65 (State.reset.setI 0xFF1) (fun t => t.status) = some (bounds (.readOutOfRange 0xFF1 16) 0xFF65) ∧
    run 0xF065 (State.reset.setI 0x1000) (fun t => t.status) = some (bounds (.readOutOfRange 0x1000 1) 0xF065) := by decide

/-! ## Display (vectors L1.3, DR1 to DR14) -/

theorem test_cls :
    run 0x00E0 { State.reset with fb := (Framebuffer.clear.set 31 ((Vector.replicate 64 false).set 63 true)) }
      (fun t => (t.pixel 63 31, t.dirty, t.pc)) = some (false, true, 0x202) := by decide
/-- Vectors DR5 and DR6: both edges wrap. -/
theorem test_drw_wraps :
    run 0xD011 (withData [(0, 63), (1, 31)] 0x300 [0xFF])
      (fun t => (t.pixel 63 31, t.pixel 0 31, t.pixel 6 31, t.pixel 7 31, t.readV VF)) = some (true, true, true, false, 0) ∧
    run 0xD012 (withData [(1, 31)] 0x300 [0x80, 0x80]) (fun t => (t.pixel 0 31, t.pixel 0 0, t.pixel 1 0)) =
      some (true, true, false) := by decide
/-- Vectors DR3, DR8 and DR10: a collision, the old `VF` as a coordinate, and a sprite past the end of memory. -/
theorem test_drw_collision_and_fault :
    run 0xD011 { withData [] 0x300 [0x80] with fb := Framebuffer.clear.set 0 ((Vector.replicate 64 false).set 0 true) }
      (fun t => (t.pixel 0 0, t.readV VF)) = some (false, 1) ∧
    run 0xDF01 (withData [(VF, 0x10)] 0x300 [0x80]) (fun t => (t.pixel 16 0, t.readV VF, t.dirty)) = some (true, 0, true) ∧
    run 0xD012 (State.reset.setI 0xFFF) (fun t => (t.status, t.dirty)) = some (bounds (.readOutOfRange 0xFFF 2) 0xD012, false) := by
  decide
/-- Vectors DR12 and DR13: the optional edge policy. -/
theorem test_drw_clipped :
    look (execDrwUnder .clip 0 1 1 (withData [(0, 62)] 0x300 [0xFF]))
      (fun t => (t.pixel 62 0, t.pixel 63 0, t.pixel 0 0, t.readV VF)) = some (true, true, false, 0) ∧
    look (execDrwUnder .clip 0 1 1 (withData [(0, 66)] 0x300 [0x80])) (fun t => t.pixel 2 0) = some true := by decide

/-! ## Keys and timers (vectors K1 to K18) -/

theorem test_skp :
    run 0xE09E ((withRegs [(0, 3)]).setKey 3 true) (fun t => t.pc) = some 0x204 ∧
    run 0xE09E (withRegs [(0, 3)]) (fun t => t.pc) = some 0x202 := by decide
theorem test_skp_above_keys : run 0xE09E (withRegs [(0, 0x10)]) (fun t => t.status) = some (bounds (.keyIndex 0x10) 0xE09E) := by decide
theorem test_sknp :
    run 0xE0A1 (withRegs [(0, 3)]) (fun t => t.pc) = some 0x204 ∧
    run 0xE0A1 ((withRegs [(0, 3)]).setKey 3 true) (fun t => t.pc) = some 0x202 := by decide
theorem test_ldFromDT : run 0xF307 (State.reset.setDT 0x20) (fun t => t.readV 3) = some 0x20 := by decide
theorem test_ldToDT : run 0xF015 ((withRegs [(0, 0x3C)]).setDT 9) (fun t => (t.dt, t.st)) = some (60, 0) := by decide
theorem test_ldToST : run 0xF118 (withRegs [(1, 2)]) (fun t => (t.st, t.dt)) = some (2, 0) := by decide
theorem test_ldKey_held_key :
    run 0xF30A (State.reset.setKey 7 true) (fun t => (t.pc, t.status, t.kprev[7])) = some (0x200, .awaitingKey 3, true) := by decide
/-- Vector K9, the poll: the lowest of the edges {2, 9}. -/
theorem test_poll :
    look (step { (State.reset.setKey 9 true).setKey 2 true with status := .awaitingKey 3 }) (fun t => (t.readV 3, t.status, t.pc)) =
      some (2, .running, 0x202) := by decide

/-! ## Fetch, ticks and the host (vectors S1 to S3, K13, K14, K17, L1.1, L1.2, R2) -/

theorem test_fetch_range :
    look (step (State.reset.setPc 0x1FF)) (fun t => t.status) = some (.faulted ⟨.programCounterOutOfRange, 0x1FF, none⟩) ∧
    look (step (State.reset.setPc 0xEA0)) (fun t => t.status) = some (.faulted ⟨.programCounterOutOfRange, 0xEA0, none⟩) ∧
    run 0x6A42 (State.reset.setPc 0xE9F) (fun t => (t.readV 0xA, t.pc)) = some (0x42, 0xEA1) := by decide
theorem test_unknown_opcode :
    look (step State.reset) (fun t => (t.status, t.pc)) = some (.faulted ⟨.unknownOpcode, 0x200, some 0x0000⟩, 0x200) := by decide
theorem test_tick :
    (let r := ((State.reset.setDT 1).setST 1).tick; (r.1.dt, r.1.st, r.2)) = (0, 0, true) ∧
    (let r := State.reset.tick; (r.1.dt, r.1.st, r.2)) = (0, 0, false) ∧
    (let r := (((State.reset.setDT 3).setST 3).setStatus (.faulted ⟨.unknownOpcode, 0x200, some 0⟩)).tick; (r.1.dt, r.1.st, r.2)) =
      (3, 3, false) := by decide
theorem test_fault_codes :
    FaultCause.programCounterOutOfRange.code = 1 ∧ FaultCause.unknownOpcode.code = 2 ∧
    (FaultCause.stackFault .underflow).subCode = some 2 ∧ (FaultCause.boundsFault (.keyIndex 0x10)).code = 4 ∧
    (FaultCause.boundsFault (.keyIndex 0x10)).subCode = some 5 ∧
    (LoadResult.romTooLarge 3233 3232).code = some 5 := by decide
theorem test_rom_capacity : Params.romCapacity = 3232 := by decide

/-! ## Witnesses: the hypotheses of each obligation can be met -/

/-- The step's answer, where it has one. -/
def nextOf (s : State) : Result → State
  | .next t => t
  | .fault _ => s
  | .refused _ => s

/-- A machine faulted at 0x200. -/
def faultedState : State := State.reset.setStatus (.faulted ⟨.unknownOpcode, 0x200, some 0x0000⟩)

theorem running_not_faulted {s : State} (h : s.status = .running) : ¬ Faulted s := by
  rintro ⟨r, hr⟩
  rw [h] at hr
  exact Status.noConfusion hr

theorem witness_DecodeOfEncodeGivesInstruction : (Instr.drw 0xF 0xE 15).wellFormed = true ∧ (Instr.drw 0xF 0xE 0).wellFormed = true := by
  decide

theorem witness_EncodeOfDecodeGivesBytes : decode [0xDF, 0xEF, 0x12] = .ok (.drw 0xF 0xE 15, [0x12]) := by decide

theorem witness_StepExecutesDecodedInstruction :
    (let s := (State.reset.setPc 0xE9F).withFetchWord 16 0x6A42
     s.status = .running ∧ 0x200 ≤ s.pc.toNat ∧ s.pc.toNat = 0xE9F ∧
     decode [s.readByte s.pc.toNat, s.readByte (s.pc.toNat + 1)] = .ok (.ldImm 0xA 0x42, [])) ∧
    (let s := State.reset.withFetchWord 16 0x8014
     s.status = .running ∧ s.pc.toNat = 0x200 ∧
     decode [s.readByte s.pc.toNat, s.readByte (s.pc.toNat + 1)] = .ok (.addReg 0 1, [])) := by decide

theorem witness_PlacedWordRunsNext :
    faultedState.mem.wf = true ∧ decodeTableWord 16 0xD015 = some (.drw 0 1 5) ∧ (State.reset.setPc 0xFFFF).mem.wf = true := by decide

theorem witness_PcOutOfRangeFaultsAtFetch :
    (State.reset.setPc 0x1FF).status = .running ∧ (State.reset.setPc 0x1FF).pc.toNat < 0x200 ∧
    (State.reset.setPc 0xEA0).status = .running ∧ 0xE9F < (State.reset.setPc 0xEA0).pc.toNat ∧
    ¬ Faulted State.reset ∧ ∃ t, exec .ret State.reset = .next t ∧ t.status = .faulted ⟨.stackFault .underflow, 0x200, some 0x00EE⟩ :=
  ⟨by decide, by decide, by decide, by decide, running_not_faulted rfl, _, rfl, by decide⟩

/-- Both clauses: the unknown word 0000 and, beside it, the defined word 00E0. -/
theorem witness_UnknownWordsFaultAndOthersExecute :
    (State.reset.status = .running ∧ 0x200 ≤ State.reset.pc.toNat ∧ State.reset.pc.toNat ≤ 0xE9F ∧
      State.reset.readByte 0x200 = highByte 0x0000 ∧ State.reset.readByte 0x201 = lowByte 0x0000 ∧ UnknownWord 0x0000) ∧
    ((placed 0x00E0).status = .running ∧ (placed 0x00E0).pc.toNat = 0x200 ∧ (placed 0x00E0).readByte 0x200 = highByte 0x00E0 ∧
      (placed 0x00E0).readByte 0x201 = lowByte 0x00E0 ∧ ¬ UnknownWord 0x00E0) := by
  unfold UnknownWord
  decide

theorem witness_FaultedStateIsLeftOnlyByReset :
    faultedState.status = .faulted ⟨.unknownOpcode, 0x200, some 0x0000⟩ ∧ Command.tick ≠ .reset ∧ Command.loadRom [0x12] ≠ .reset := by
  decide

/-- No edge at all, a key held through, and two edges of which 2 is the lower. -/
theorem witness_PollTakesLowestPressEdge :
    (let s := (State.reset.setKey 7 true).setKprev (State.reset.setKey 7 true).keys
     (s.setStatus (.awaitingKey 3)).status = .awaitingKey 3 ∧ ∀ k : KeyIdx, ¬ (s.keys[k] = true ∧ s.kprev[k] = false)) ∧
    (let s := (State.reset.setKey 9 true).setKey 2 true
     s.keys[2] = true ∧ s.kprev[2] = false ∧ s.keys[9] = true ∧ ∀ j : KeyIdx, j < 2 → ¬ (s.keys[j] = true ∧ s.kprev[j] = false)) := by
  decide

/-- A fault with no opcode, one with an unknown opcode, and one an instruction raises. -/
theorem witness_EveryFaultIsPrecise :
    (¬ Faulted (State.reset.setPc 0x1FF) ∧ ∃ t, step (State.reset.setPc 0x1FF) = .next t ∧
      t.status = .faulted ⟨.programCounterOutOfRange, 0x1FF, none⟩) ∧
    (¬ Faulted State.reset ∧ ∃ t, step State.reset = .next t ∧ t.status = .faulted ⟨.unknownOpcode, 0x200, some 0x0000⟩) ∧
    (¬ Faulted (placed 0x00EE) ∧ ∃ t, step (placed 0x00EE) = .next t ∧
      t.status = .faulted ⟨.stackFault .underflow, 0x200, some 0x00EE⟩) :=
  ⟨⟨running_not_faulted rfl, _, rfl, by decide⟩, ⟨running_not_faulted rfl, _, rfl, by decide⟩,
    ⟨running_not_faulted rfl, _, rfl, by decide⟩⟩

theorem witness_InstructionsRaiseOnlyTheirFaults :
    ¬ Faulted State.reset ∧ ∃ t, exec .ret State.reset = .next t ∧ t.status = .faulted ⟨.stackFault .underflow, 0x200, some 0x00EE⟩ :=
  ⟨running_not_faulted rfl, _, rfl, by decide⟩

/-- A step that stores to memory. -/
theorem witness_StepKeepsInvariant :
    Inv ((placed 0xF033).setI 0x300) ∧ ∃ t, step ((placed 0xF033).setI 0x300) = .next t ∧ t.status = .running := by
  refine ⟨⟨by decide, fun a ha => ?_⟩, _, rfl, by decide⟩
  exact Memory.read_writeBytes_other [0xF0, 0x33] [] 0x200 (by simp; omega)

theorem witness_CommandsKeepInvariant :
    Inv State.reset ∧ ∃ t, State.reset.apply (.loadRom [0x12, 0x00]) = .next (t, .loaded .ok) :=
  ⟨⟨rfl, fun _ _ => rfl⟩, _, rfl⟩

theorem witness_ReachableStatesKeepFontTable : ∃ t, Reaches State.reset t ∧ t.dt = 0 ∧ t.keys[3] = true :=
  ⟨_, ⟨[.tick, .setKey 3 true, .step, .clearDirty], _, rfl⟩, by decide, by decide⟩

theorem witness_OnlyResetWritesInterpreterRegion :
    Command.loadRom [0x12] ≠ .reset ∧ ∃ t reply, State.reset.apply (.loadRom [0x12]) = .next (t, reply) :=
  ⟨by decide, _, _, rfl⟩

/-- A load, both stores at the last address they can store to, and a fault. -/
theorem witness_InstructionsWriteOnlyTheirParts :
    (∃ t, exec (.loadRegs 0xF) State.reset = .next t) ∧
    (∃ t, exec (.ldBcd 0) (State.reset.setI 0xFFD) = .next t ∧ t.status = .running) ∧
    (∃ t, exec (.storeRegs 0xF) (State.reset.setI 0xFF0) = .next t ∧ t.status = .running) ∧
    ¬ Faulted (State.reset.setI 0x1FF) ∧ ∃ t, exec (.storeRegs 0) (State.reset.setI 0x1FF) = .next t ∧ Faulted t :=
  ⟨⟨_, rfl⟩, ⟨_, rfl, rfl⟩, ⟨_, rfl, rfl⟩, running_not_faulted rfl, _, rfl, ⟨_, rfl⟩⟩

/-- Both clauses: an instruction that faults, and each way to move `pc`, the return from the deepest and the shallowest entry. -/
theorem witness_ProgramCounterAdvances :
    (∃ t, exec .ret State.reset = .next t ∧ Faulted t) ∧
    (∃ t, exec .cls State.reset = .next t ∧ ¬ Faulted t ∧ Instr.cls.pcMove = .sequential) ∧
    (∃ t, exec (.seImm 0 0) State.reset = .next t ∧ ¬ Faulted t ∧ (Instr.seImm 0 0).pcMove = .skip) ∧
    (∃ t, exec (.ldKey 0) State.reset = .next t ∧ ¬ Faulted t ∧ (Instr.ldKey 0).pcMove = .stays) ∧
    (∃ t, exec .ret { State.reset with sp := 1 } = .next t ∧ ¬ Faulted t ∧ Instr.ret.pcMove = .absolute) ∧
    (∃ t, exec .ret { State.reset with sp := 16 } = .next t ∧ ¬ Faulted t) ∧
    (∃ t, exec (.call 0x300) State.reset = .next t ∧ ¬ Faulted t ∧ (Instr.call 0x300).pcMove = .absolute) ∧
    ∃ t, exec (.jpV0 0xFFF) (withRegs [(0, 0xFF)]) = .next t ∧ ¬ Faulted t ∧ (Instr.jpV0 0xFFF).pcMove = .absolute := by
  refine ⟨⟨_, rfl, ⟨_, rfl⟩⟩, ⟨_, rfl, running_not_faulted rfl, rfl⟩, ⟨_, rfl, running_not_faulted rfl, rfl⟩, ⟨_, rfl, ?_, rfl⟩,
    ⟨_, rfl, running_not_faulted rfl, rfl⟩, ⟨_, rfl, running_not_faulted rfl⟩, ⟨_, rfl, running_not_faulted rfl, rfl⟩,
    ⟨_, rfl, running_not_faulted rfl, rfl⟩⟩
  rintro ⟨r, hr⟩
  exact Status.noConfusion hr

/-- An instruction that writes one of the unread pieces, and `CXNN` with its counter kept. -/
theorem witness_InstructionsIgnoreUnreadState :
    ((∀ x nn, Instr.ldToST 3 ≠ .rnd x nn) ∧ ∃ t, exec (.ldToST 3) State.reset = .next t) ∧
    0 = State.reset.rndDraws ∧ ∃ t, exec (.rnd 3 0xFF) State.reset = .next t :=
  ⟨⟨by simp, _, rfl⟩, rfl, _, rfl⟩

theorem witness_QuiescentStateStaysUnchanged : Quiescent faultedState ∧ Quiescent (placed 0x1200) :=
  ⟨.inl ⟨_, rfl⟩, .inr ⟨rfl, by decide, 0x200, by decide, by decide⟩⟩

/-- Program P8: `F155` at 0x206 stores `1208` at 0x208; and the last place where it can, 0xE9D. -/
theorem witness_StoredInstructionRunsNext :
    (let s := (withRegs [(0, 0x12), (1, 0x08)]).setPc 0x206
     let u := s.setI 0x208
     u.mem.wf = true ∧ u.status = .running ∧ u.i = u.pc + 2 ∧ 0x200 ≤ u.i.toNat ∧ u.i.toNat ≤ 0xE9F ∧
     (Instr.jp 0x208).wellFormed = true ∧ u.readV 0 = highByte (encode (.jp 0x208)) ∧ u.readV 1 = lowByte (encode (.jp 0x208)) ∧
     look (exec (.storeRegs 1) u) (fun t => t.pc) = some 0x208) ∧
    (let u := ((withRegs [(0, 0x12), (1, 0x08)]).setPc 0xE9D).setI 0xE9F
     u.i = u.pc + 2 ∧ u.i.toNat = 0xE9F ∧ look (exec (.storeRegs 0xF) u) (fun t => t.pc) = some 0xE9F) := by decide

theorem witness_JumpGoesToTarget :
    State.reset.status = .running ∧ (0x1FF#12).toNat < 0x200 ∧ 0xE9F < (0xEA0#12).toNat := by decide

theorem witness_IndexedJumpAddsV0 :
    (withRegs [(0, 0xFF)]).status = .running ∧ look (exec (.jpV0 0xFFF) (withRegs [(0, 0xFF)])) (fun t => t.pc.toNat) = some 0x10FE ∧
    look (exec (.jpV0 0x1FF) State.reset) (fun t => t.pc.toNat) = some 0x1FF := by decide

theorem witness_CallPushesReturnAddress :
    ({ State.reset with sp := 15 } : State).sp.val < 16 ∧ ({ State.reset with sp := 16 } : State).sp.val = 16 ∧
    State.reset.sp.val < 16 := by decide

theorem witness_ReturnPopsReturnAddress :
    ({ State.reset with sp := 16 } : State).sp.val = (15 : Fin 16).val + 1 ∧ ({ State.reset with sp := 1 } : State).sp.val = (0 : Fin 16).val + 1 ∧
    State.reset.sp.val = 0 := by decide

/-- The callee may change anything but the stack: here, `VF`. -/
theorem witness_ReturnComesBackAfterCall :
    (let s := ({ State.reset with sp := 15 } : State)
     let t := nextOf s (exec (.call 0x300) s)
     s.sp.val < 16 ∧ exec (.call 0x300) s = .next t ∧ (t.writeV VF 1).stack = t.stack ∧ (t.writeV VF 1).sp = t.sp) :=
  ⟨by decide, rfl, rfl, rfl⟩

theorem witness_SkipsCompareWithImmediate : (withRegs [(2, 0x10)]).readV 2 = 0x10 ∧ (withRegs [(2, 0x10)]).readV 2 ≠ 0x11 := by decide

theorem witness_SkipsCompareRegisters :
    (withRegs [(1, 7), (2, 7)]).readV 1 = (withRegs [(1, 7), (2, 7)]).readV 2 ∧
    (withRegs [(1, 7), (2, 8)]).readV 1 ≠ (withRegs [(1, 7), (2, 8)]).readV 2 ∧ (0xF#4 : BitVec 4) ≠ 0x0#4 := by decide

theorem witness_AddSetsCarryInVF : (0 : RegIdx) ≠ VF ∧ (14 : RegIdx) ≠ VF := by decide

theorem witness_SubtractSetsNotBorrowInVF : (0 : RegIdx) ≠ VF := by decide

theorem witness_ShiftsPutLostBitInVF : (0 : RegIdx) ≠ VF := by decide

theorem witness_FontAddressOfDigit :
    ((withRegs [(0, 0xF)]).readV 0).toNat ≤ 0xF ∧ 0xF < ((withRegs [(0, 0x10)]).readV 0).toNat := by decide

/-- The first and the last address that may be stored to, and one on either side. -/
theorem witness_BcdStoresThreeDigits :
    (0x200 ≤ (State.reset.setI 0x200).i.toNat ∧ (State.reset.setI 0x200).i.toNat + 2 ≤ 0xFFF ∧ (State.reset.setI 0x200).mem.wf = true) ∧
    (State.reset.setI 0xFFD).i.toNat + 2 = 0xFFF ∧ 0xFFF < (State.reset.setI 0xFFE).i.toNat + 2 ∧ (State.reset.setI 0x1FF).i.toNat ≤ 0x1FF := by
  decide

theorem witness_StoreWritesRegistersToMemory :
    (0x200 ≤ (State.reset.setI 0x200).i.toNat ∧ (State.reset.setI 0x200).i.toNat + (0xF : RegIdx).val ≤ 0xFFF ∧
      (State.reset.setI 0x200).mem.wf = true ∧ (0xF : RegIdx) ≤ 0xF) ∧
    (State.reset.setI 0xFF0).i.toNat + (0xF : RegIdx).val = 0xFFF ∧ 0xFFF < (State.reset.setI 0xFF1).i.toNat + (0xF : RegIdx).val ∧
    (State.reset.setI 0x1FF).i.toNat ≤ 0x1FF := by decide

theorem witness_LoadReadsRegistersFromMemory :
    (State.reset.setI 0xFF0).i.toNat + (0xF : RegIdx).val ≤ 0xFFF ∧ 0xFFF < (State.reset.setI 0xFF1).i.toNat + (0xF : RegIdx).val := by decide

theorem witness_KeySkipsReadKeyState :
    ((withRegs [(0, 0xF)]).readV 0).toNat = (0xF : KeyIdx).val ∧ 0xF < ((withRegs [(0, 0x10)]).readV 0).toNat := by decide

theorem witness_SoundTimerIsSet : ¬ Faulted State.reset := running_not_faulted rfl

/-- A sprite that ends at 0xFFF, an empty one past it, and one that passes it. -/
theorem witness_DrawXorsSpriteAndReportsCollision :
    SpriteReadable (State.reset.setI 0xFF1) 15 ∧ SpriteReadable (State.reset.setI 0xFFFF) 0 ∧ ¬ SpriteReadable (State.reset.setI 0xFF2) 15 := by
  unfold SpriteReadable
  decide

theorem witness_ClippedDrawDiscardsOffscreenPixels :
    (15 ≤ 15) ∧ SpriteReadable (State.reset.setI 0xFF1) 15 ∧ ¬ SpriteReadable (State.reset.setI 0xFF2) 15 := by
  unfold SpriteReadable
  decide

/-- Both draws of vector L1.7. -/
theorem witness_DrawingTwiceRestoresScreen :
    (let s := withData [] 0x300 [0xC3]
     let t := nextOf s (exec (.drw 0 1 1) s)
     (1 ≤ 15) ∧ SpriteReadable s 1 ∧ exec (.drw 0 1 1) s = .next t ∧ t.fb = t.fb ∧ (∀ a : Nat, t.readByte a = s.readByte a) ∧
     t.i = s.i ∧ t.readV 0 = s.readV 0 ∧ t.readV 1 = s.readV 1) :=
  ⟨by decide, .inr (by decide), rfl, rfl, fun _ => rfl, rfl, rfl, rfl⟩

/-- A sprite over a pixel that was set before: the first draw collides, the second does not. -/
theorem witness_SecondDrawAlwaysCollides :
    (let s := { withData [] 0x300 [0x80] with fb := Framebuffer.clear.set 0 ((Vector.replicate 64 false).set 0 true) }
     let t := nextOf s (exec (.drw 0 1 1) s)
     let w := nextOf t (exec (.drw 0 1 1) t)
     SpriteReadable s 1 ∧ exec (.drw 0 1 1) s = .next t ∧ (∀ a : Nat, t.readByte a = s.readByte a) ∧ t.i = s.i ∧
     t.readV 0 = s.readV 0 ∧ t.readV 1 = s.readV 1 ∧ (∃ (px : Fin 64) (py : Fin 32), SpriteHits s 0 1 1 px py) ∧
     exec (.drw 0 1 1) t = .next w) :=
  ⟨.inr (by decide), rfl, fun _ => rfl, rfl, rfl, rfl, ⟨0, 0, 0, 0, by decide, by decide, by decide, by decide, by decide⟩, rfl⟩

theorem witness_TickDecaysBothTimers : Faulted faultedState ∧ ¬ Faulted State.reset := ⟨⟨_, rfl⟩, running_not_faulted rfl⟩

theorem witness_DelayTimerReachesZeroAfterItsTicks :
    (¬ Faulted (withRegs [(2, 5)]) ∧ ∃ t, exec (.ldToDT 2) (withRegs [(2, 5)]) = .next t) ∧
    Faulted faultedState ∧ ∃ t, exec (.ldToDT 2) faultedState = .next t :=
  ⟨⟨running_not_faulted rfl, _, rfl⟩, ⟨_, rfl⟩, _, rfl⟩

/-- The longest ROM that fits and the shortest that does not; memory is in its canonical form. -/
theorem witness_RomLoadFillsProgramRegionOrIsRefused :
    (List.replicate 3232 (0xAA : Byte)).length ≤ 3232 ∧ 3232 < (List.replicate 3233 (0x55 : Byte)).length ∧ State.reset.mem.wf = true ∧
    0 < (List.replicate 3232 (0xAA : Byte)).length := by
  rw [List.length_replicate, List.length_replicate]
  decide

end Sys2Proof.Tests
end

section
/-!
PROOFS. The statements of spec/10_state.md about frames, `pc`, faults at the fetch, unread state, reset and the host's writes.
The layer they share comes first: the frame rule of each state update, and the normal form of `exec`, a check and an effect.
-/
namespace Sys2Proof.Machine

/-! ### Frame rules

An update of a piece that may change neither makes nor breaks a frame, so `simp` strips a chain of updates down to the state it
began with. -/

theorem Part.same_refl (s : State) (p : Part) : p.same s s := by
  cases p <;> simp [Part.same]

@[simp] theorem Frame.refl (l : List Part) (s : State) : Frame l s s := fun p _ => Part.same_refl s p

/-- States that agree in every piece but one that may change stand in the same frames. -/
theorem Frame.congr_of_ne {q : Part} {l : List Part} {s t u : State} (hq : q ∈ l)
    (h : ∀ p : Part, p ≠ q → (p.same s u ↔ p.same s t)) : Frame l s u ↔ Frame l s t :=
  forall₂_congr fun p hp => h p fun e => hp (e ▸ hq)

section
variable {l : List Part} {s t : State}

@[simp] theorem frame_setPc (a : Word) (hl : .pc ∈ l) : Frame l s (t.setPc a) ↔ Frame l s t :=
  Frame.congr_of_ne hl (by rintro ⟨⟩ <;> simp [Part.same, State.readV, State.readByte, State.pixel])

@[simp] theorem frame_setI (a : Word) (hl : .index ∈ l) : Frame l s (t.setI a) ↔ Frame l s t :=
  Frame.congr_of_ne hl (by rintro ⟨⟩ <;> simp [Part.same, State.readV, State.readByte, State.pixel])

@[simp] theorem frame_setRegs (r : Vector Byte 16) (hl : .regs ∈ l) : Frame l s (t.setRegs r) ↔ Frame l s t :=
  Frame.congr_of_ne hl (by rintro ⟨⟩ <;> simp [Part.same, State.readV, State.readByte, State.pixel])

@[simp] theorem frame_setDT (b : Byte) (hl : .delayTimer ∈ l) : Frame l s (t.setDT b) ↔ Frame l s t :=
  Frame.congr_of_ne hl (by rintro ⟨⟩ <;> simp [Part.same, State.readV, State.readByte, State.pixel])

@[simp] theorem frame_setST (b : Byte) (hl : .soundTimer ∈ l) : Frame l s (t.setST b) ↔ Frame l s t :=
  Frame.congr_of_ne hl (by rintro ⟨⟩ <;> simp [Part.same, State.readV, State.readByte, State.pixel])

@[simp] theorem frame_setMem (m : Memory) (hl : .memory ∈ l) : Frame l s (t.setMem m) ↔ Frame l s t :=
  Frame.congr_of_ne hl (by rintro ⟨⟩ <;> simp [Part.same, State.readV, State.readByte, State.pixel])

@[simp] theorem frame_setFB (f : Framebuffer) (hl : .screen ∈ l) : Frame l s (t.setFB f) ↔ Frame l s t :=
  Frame.congr_of_ne hl (by rintro ⟨⟩ <;> simp [Part.same, State.readV, State.readByte, State.pixel])

@[simp] theorem frame_setDirty (d : Bool) (hl : .dirty ∈ l) : Frame l s (t.setDirty d) ↔ Frame l s t :=
  Frame.congr_of_ne hl (by rintro ⟨⟩ <;> simp [Part.same, State.readV, State.readByte, State.pixel])

@[simp] theorem frame_setKeys (k : Vector Bool 16) (hl : .keys ∈ l) : Frame l s (t.setKeys k) ↔ Frame l s t :=
  Frame.congr_of_ne hl (by rintro ⟨⟩ <;> simp [Part.same, State.readV, State.readByte, State.pixel])

@[simp] theorem frame_setKprev (k : Vector Bool 16) (hl : .keySnapshot ∈ l) : Frame l s (t.setKprev k) ↔ Frame l s t :=
  Frame.congr_of_ne hl (by rintro ⟨⟩ <;> simp [Part.same, State.readV, State.readByte, State.pixel])

@[simp] theorem frame_setStatus (u : Status) (hl : .status ∈ l) : Frame l s (t.setStatus u) ↔ Frame l s t :=
  Frame.congr_of_ne hl (by rintro ⟨⟩ <;> simp [Part.same, State.readV, State.readByte, State.pixel])

@[simp] theorem frame_setStack (e : Vector Word 16) (n : Fin 17) (hl : .stack ∈ l) : Frame l s (t.setStack e n) ↔ Frame l s t :=
  Frame.congr_of_ne hl (by rintro ⟨⟩ <;> simp [Part.same, State.readV, State.readByte, State.pixel])

@[simp] theorem frame_setRndDraws (n : Nat) (hl : .randomDraws ∈ l) : Frame l s (t.setRndDraws n) ↔ Frame l s t :=
  Frame.congr_of_ne hl (by rintro ⟨⟩ <;> simp [Part.same, State.readV, State.readByte, State.pixel])

@[simp] theorem frame_advance (hl : .pc ∈ l) : Frame l s t.advance ↔ Frame l s t := frame_setPc _ hl

@[simp] theorem frame_skipIf (c : Bool) (hl : .pc ∈ l) : Frame l s (t.skipIf c) ↔ Frame l s t := frame_setPc _ hl

@[simp] theorem frame_writeV (x : RegIdx) (b : Byte) (hl : .regs ∈ l) : Frame l s (t.writeV x b) ↔ Frame l s t :=
  frame_setRegs _ hl

@[simp] theorem frame_finish (x : RegIdx) (b : Byte) (hl : .regs ∈ l) (hp : .pc ∈ l) :
    Frame l s (t.finish x b) ↔ Frame l s t := by
  simp [State.finish, hl, hp]

@[simp] theorem frame_finishWithFlag (x : RegIdx) (b : Byte) (g : Bool) (hl : .regs ∈ l) (hp : .pc ∈ l) :
    Frame l s (t.finishWithFlag x b g) ↔ Frame l s t := by
  simp [State.finishWithFlag, hl, hp]

@[simp] theorem frame_raiseFault (c : FaultCause) (o : Option Word) (hl : .status ∈ l) :
    Frame l s (t.raiseFault c o) ↔ Frame l s t := frame_setStatus _ hl

end

/-- A frame in which no register may change says so of every register. -/
theorem Frame.regsExcept {l : List Part} {s t : State} (h : Frame l s t) (hl : .regs ∉ l) (xs : List RegIdx) :
    RegsExcept xs s t := fun r _ => h .regs hl r

/-! ### Which registers the ends of an instruction write -/

theorem regsExcept_finish {xs : List RegIdx} {s t : State} {x : RegIdx} (b : Byte) (ht : t.v = s.v) (hx : x ∈ xs) :
    RegsExcept xs s (t.finish x b) := fun r hr => by
  have hne : r ≠ x := fun e => hr (e ▸ hx)
  rw [State.readV_finish, if_neg hne, State.readV_congr ht]

theorem regsExcept_finishWithFlag (s : State) (x : RegIdx) (b : Byte) (g : Bool) :
    RegsExcept [x, VF] s (s.finishWithFlag x b g) := fun r hr => by
  simp only [List.mem_cons, List.not_mem_nil, or_false, not_or] at hr
  rw [State.readV_finishWithFlag, if_neg hr.2, if_neg hr.1]

theorem regsExcept_loadInto (s t : State) (x : RegIdx) (ht : t.v = loadInto s.mem s.i.toNat s.v (x.val + 1)) :
    RegsExcept ((List.finRange 16).filter (· ≤ x)) s t := fun r hr => by
  have hlt : ¬ r.val < x.val + 1 := fun hl => hr (by simpa using Fin.mk_le_mk.mpr (Nat.le_of_lt_succ hl))
  rw [State.readV, ht, loadInto_get, if_neg hlt, State.readV]

end Sys2Proof.Machine

namespace Sys2Proof

open Machine

/-! ### The normal form of `exec`

Every meaning is a check and an effect: the check finds a fault, or the instruction completes (R16, R223, R901). -/

/-- The fault an instruction raises from `s`, if any. -/
def Instr.check (i : Instr) (s : State) : Option FaultCause :=
  match i with
  | .ret => if s.sp.val = 0 then some (.stackFault .underflow) else none
  | .call _ => if s.sp.val = 16 then some (.stackFault .overflow) else none
  | .drw _ _ n => checkRead s.i n
  | .skp x | .sknp x => checkKeyIndex (s.readV x)
  | .ldFont x => checkFontDigit (s.readV x)
  | .ldBcd _ => checkWrite s.i 3
  | .storeRegs x => checkWrite s.i (x.val + 1)
  | .loadRegs x => checkRead s.i (x.val + 1)
  | _ => none

/-- The state an instruction leaves when its check passes. For `00EE` on an empty stack and `2NNN` on a full one, where the check
fails, the value is of no concern. -/
def Instr.effect (i : Instr) (s : State) : State :=
  match i with
  | .cls => ((s.setFB Framebuffer.clear).setDirty true).advance
  | .ret => (s.setStack s.stack ⟨s.sp.val - 1, by omega⟩).setPc (s.stack[s.sp.val - 1]'(by omega))
  | .jp nnn => s.setPc (zextAddr nnn)
  | .call nnn => (s.setStack (s.stack.setIfInBounds s.sp.val (s.pc + 2)) (s.sp + 1)).setPc (zextAddr nnn)
  | .seImm x nn => s.skipIf (s.readV x == nn)
  | .sneImm x nn => s.skipIf (s.readV x != nn)
  | .seReg x y => s.skipIf (s.readV x == s.readV y)
  | .ldImm x nn => s.finish x nn
  | .addImm x nn => s.finish x (addBytes (s.readV x) nn)
  | .ldReg x y => s.finish x (s.readV y)
  | .orReg x y => s.finish x (s.readV x ||| s.readV y)
  | .andReg x y => s.finish x (s.readV x &&& s.readV y)
  | .xorReg x y => s.finish x (s.readV x ^^^ s.readV y)
  | .addReg x y => s.finishWithFlag x (addBytes (s.readV x) (s.readV y)) (carryFlag (s.readV x) (s.readV y))
  | .subReg x y => s.finishWithFlag x (subBytes (s.readV x) (s.readV y)) (noBorrowFlag (s.readV x) (s.readV y))
  | .shr x _ => s.finishWithFlag x (s.readV x >>> 1) (shiftRightFlag (s.readV x))
  | .subn x y => s.finishWithFlag x (subBytes (s.readV y) (s.readV x)) (noBorrowFlag (s.readV y) (s.readV x))
  | .shl x _ => s.finishWithFlag x (s.readV x <<< 1) (shiftLeftFlag (s.readV x))
  | .sneReg x y => s.skipIf (s.readV x != s.readV y)
  | .ldI nnn => (s.setI (zextAddr nnn)).advance
  | .jpV0 nnn => s.setPc (indexedTarget nnn (s.readV 0))
  | .rnd x nn => (s.setRndDraws (s.rndDraws + 1)).finish x (Config.randomByte s.rndDraws &&& nn)
  | .drw x y n =>
    ((s.setFB (s.drawn Params.spriteEdgePolicy x y n).fb).setDirty true).finish VF
      (flagByte (s.drawn Params.spriteEdgePolicy x y n).collision)
  | .skp x => s.skipIf (s.keyPressed (s.readV x))
  | .sknp x => s.skipIf (!s.keyPressed (s.readV x))
  | .ldFromDT x => s.finish x s.dt
  | .ldKey x => (s.setKprev s.keys).setStatus (.awaitingKey x)
  | .ldToDT x => (s.setDT (s.readV x)).advance
  | .ldToST x => (s.setST (s.readV x)).advance
  | .addI x => (s.setI (indexSum s.i (s.readV x))).advance
  | .ldFont x => (s.setI (glyphAddr (s.readV x))).advance
  | .ldBcd x => (s.setMem (s.mem.writeBytes s.i.toNat (bcdDigits (s.readV x)))).advance
  | .storeRegs x => (s.setMem (s.mem.writeBytes s.i.toNat (s.regsUpTo x))).advance
  | .loadRegs x => (s.setRegs (loadInto s.mem s.i.toNat s.v (x.val + 1))).advance

end Sys2Proof

namespace Sys2Proof.Machine

theorem execRet_eq (s : State) :
    execRet s = s.unlessFault .ret (Instr.ret.check s) (Instr.ret.effect s) := by
  by_cases h : s.sp.val = 0
  · simp [execRet, State.pop_empty h, Instr.check, h, State.unlessFault]
  · simp [execRet, State.pop_of_pos (Nat.pos_of_ne_zero h), Instr.check, h, State.unlessFault, Instr.effect]

theorem execCall_eq (nnn : Addr12) (s : State) :
    execCall nnn s = s.unlessFault (.call nnn) ((Instr.call nnn).check s) ((Instr.call nnn).effect s) := by
  by_cases h : s.sp.val = 16
  · simp [execCall, State.push_full h, Instr.check, h, State.unlessFault]
  · have hlt : s.sp.val < 16 := by omega
    have hsp : (⟨s.sp.val + 1, by omega⟩ : Fin 17) = s.sp + 1 := Fin.ext (by simp [Fin.val_add]; omega)
    have hset : s.stack.setIfInBounds s.sp.val (s.pc + 2) = s.stack.set s.sp.val (s.pc + 2) hlt :=
      Vector.ext fun k hk => by simp [Vector.getElem_setIfInBounds, Vector.getElem_set]
    simp only [execCall, State.push_of_lt hlt, Instr.check, h, State.unlessFault, Instr.effect, hsp, hset, if_false]

/-- `exec` in normal form. -/
theorem exec_eq (i : Instr) (s : State) : exec i s = s.unlessFault i (i.check s) (i.effect s) := by
  cases i
  case ret => exact execRet_eq s
  case call nnn => exact execCall_eq nnn s
  all_goals rfl

/-- Everything an instruction can do: raise the fault its check finds, or complete. -/
theorem exec_cases {i : Instr} {s t : State} (h : exec i s = .next t) :
    i.check s = none ∧ t = i.effect s ∨ ∃ c, i.check s = some c ∧ t = s.raiseFault c (some (encode i)) :=
  State.unlessFault_cases (exec_eq i s ▸ h)

/-- An instruction that takes a machine to a fault has raised one of its own. -/
theorem exec_faulted {i : Instr} {s t : State} (hs : ¬ Faulted s) (h : exec i s = .next t) (ht : Faulted t) :
    ∃ c, t = s.raiseFault c (some (encode i)) ∧ i.mayRaise c = true := by
  obtain ⟨r, hr⟩ := ht
  rcases exec_status h with hc | hkeep | ⟨x, -, hwait⟩
  · exact hc
  · exact absurd ⟨r, hkeep ▸ hr⟩ hs
  · exact absurd (hwait ▸ hr) Status.noConfusion

/-- An instruction that ends without a fault has passed its check and completed. -/
theorem exec_completed {i : Instr} {s t : State} (h : exec i s = .next t) (ht : ¬ Faulted t) :
    i.check s = none ∧ t = i.effect s := by
  rcases exec_cases h with hdone | ⟨c, -, rfl⟩
  · exact hdone
  · exact absurd ⟨_, rfl⟩ ht

/-! ### Frames of the effects -/

/-- A completed instruction changes only what it may write. -/
theorem effect_frame (i : Instr) (s : State) : Frame i.writes s (i.effect s) := by
  cases i <;> simp [Instr.effect, Instr.writes]

/-- An instruction whose check can fail may write `status` (R900). -/
theorem status_mem_writes {i : Instr} {s : State} {c : FaultCause} (h : i.check s = some c) : .status ∈ i.writes := by
  cases i <;> simp [Instr.check, Instr.writes] at h ⊢

theorem exec_frame {i : Instr} {s t : State} (h : exec i s = .next t) : Frame i.writes s t := by
  rcases exec_cases h with ⟨-, rfl⟩ | ⟨c, hc, rfl⟩
  · exact effect_frame i s
  · simp [status_mem_writes hc]

/-- A completed instruction writes no register but its destinations. -/
theorem effect_regs (i : Instr) (s : State) : RegsExcept i.destRegs s (i.effect s) := by
  cases i
  case ldImm | addImm | ldReg | orReg | andReg | xorReg | rnd | drw | ldFromDT =>
    exact regsExcept_finish _ rfl List.mem_cons_self
  case addReg | subReg | shr | subn | shl => exact regsExcept_finishWithFlag s _ _ _
  case loadRegs x => exact regsExcept_loadInto s _ x rfl
  all_goals exact (effect_frame _ s).regsExcept (by simp [Instr.writes]) _

theorem exec_regs {i : Instr} {s t : State} (h : exec i s = .next t) : RegsExcept i.destRegs s t := by
  rcases exec_cases h with ⟨-, rfl⟩ | ⟨c, -, rfl⟩
  · exact effect_regs i s
  · exact fun _ _ => rfl

/-- An instruction stores no byte outside its `storeLen` bytes from `I` on. -/
theorem exec_memExcept {i : Instr} {s t : State} (h : exec i s = .next t) : MemExcept s.i.toNat i.storeLen s t := by
  intro q hq
  rcases exec_memory h with hm | ⟨bs, hm, hlen, -, -⟩
  · exact State.readByte_congr hm q
  · rw [State.readByte, hm, Memory.read_writeBytes_other bs _ _ (hlen ▸ hq), State.readByte]

/-- Settles O22: the frame of the effect, of the fault, and the bytes a store may reach. -/
theorem instructionsWriteOnlyTheirParts : Obligations.InstructionsWriteOnlyTheirParts := by
  intro i s t h
  refine ⟨exec_frame h, exec_regs h, exec_memExcept h, ?_, ?_, fun hs ht => ?_⟩
  · rintro x rfl
    exact exec_memExcept h
  · rintro x rfl
    exact exec_memExcept h
  · obtain ⟨c, rfl, -⟩ := exec_faulted hs h ht
    rfl

/-! ### The program counter -/

theorem effect_pc_sequential {i : Instr} (s : State) (h : i.pcMove = .sequential) : (i.effect s).pc = s.pc + 2 := by
  cases i <;> simp [Instr.pcMove, Instr.effect] at h ⊢

theorem skipIf_pc_cases (s : State) (c : Bool) : (s.skipIf c).pc = s.pc + 2 ∨ (s.skipIf c).pc = s.pc + 4 := by
  cases c <;> simp

theorem effect_pc_skip {i : Instr} (s : State) (h : i.pcMove = .skip) :
    (i.effect s).pc = s.pc + 2 ∨ (i.effect s).pc = s.pc + 4 := by
  cases i
  case seImm | sneImm | seReg | sneReg | skp | sknp => exact skipIf_pc_cases s _
  all_goals simp [Instr.pcMove] at h

theorem effect_pc_stays {i : Instr} (s : State) (h : i.pcMove = .stays) : (i.effect s).pc = s.pc := by
  cases i
  case ldKey => rfl
  all_goals simp [Instr.pcMove] at h

/-- Where the jumps, the call and the return go. A return whose check passes finds an entry below `sp`. -/
theorem effect_pc_absolute {i : Instr} {s : State} (hc : i.check s = none) (h : i.pcMove = .absolute) :
    (i = .ret ∧ ∃ k : Fin 16, s.sp.val = k.val + 1 ∧ (i.effect s).pc = s.stack[k]) ∨
    (∃ nnn, (i = .jp nnn ∨ i = .call nnn) ∧ (i.effect s).pc = zextAddr nnn) ∨
    ∃ nnn, i = .jpV0 nnn ∧ (i.effect s).pc = indexedTarget nnn (s.readV 0) := by
  cases i
  case ret =>
    have hsp : s.sp.val ≠ 0 := by simpa [Instr.check] using hc
    exact .inl ⟨rfl, ⟨s.sp.val - 1, by omega⟩, by simp; omega, rfl⟩
  case jp nnn => exact .inr (.inl ⟨nnn, .inl rfl, rfl⟩)
  case call nnn => exact .inr (.inl ⟨nnn, .inr rfl, rfl⟩)
  case jpV0 nnn => exact .inr (.inr ⟨nnn, rfl, rfl⟩)
  all_goals simp [Instr.pcMove] at h

/-- Settles O23: a fault leaves `pc`, and a completed instruction moves it as its class says. -/
theorem programCounterAdvances : Obligations.ProgramCounterAdvances := by
  intro i s t hs h
  refine ⟨fun ht => ?_, fun ht => ?_⟩
  · obtain ⟨c, rfl, -⟩ := exec_faulted hs h ht
    rfl
  · obtain ⟨hc, rfl⟩ := exec_completed h ht
    exact ⟨effect_pc_sequential s, effect_pc_skip s, effect_pc_stays s, effect_pc_absolute hc⟩

/-! ### The fault at the fetch -/

/-- A running machine whose `pc` is out of range faults before any read (R113, R902). -/
theorem step_outOfRange {s : State} (hs : s.status = .running) (hp : s.pcInRange = false) :
    step s = .next (s.raiseFault .programCounterOutOfRange none) := by
  simp [step, hs, State.fetchInstr_outOfRange hp]

/-- A return from a stack in use pops into `pc` (R501). -/
theorem exec_ret_of_pos {s : State} (h : 0 < s.sp.val) : exec .ret s = .next (Instr.ret.effect s) := by
  rw [exec_eq]
  exact State.unlessFault_none (if_neg (Nat.ne_of_gt h))

/-- Settles O10: the step checks `pc` before it fetches, no row of R900 lets an instruction raise this fault, and `RET` checks
nothing of the entry it pops. -/
theorem pcOutOfRangeFaultsAtFetch : Obligations.PcOutOfRangeFaultsAtFetch := by
  refine ⟨fun s hs hpc => step_outOfRange hs ?_, fun i s t r hs h hr hcause => ?_, fun a s => ?_⟩
  · rw [Bool.eq_false_iff, ne_eq, State.pcInRange_iff]
    omega
  · obtain ⟨c, rfl, hmay⟩ := exec_faulted hs h ⟨r, hr⟩
    obtain rfl := Status.faulted.inj hr
    subst hcause
    exact Bool.false_ne_true hmay
  · exact ⟨_, exec_ret_of_pos Nat.one_pos, by simp [Instr.effect], rfl⟩

/-! ### State no instruction reads -/

/-- `s` with other values in the pieces no instruction reads, and another counter of random draws. -/
def State.withUnread (s : State) (b : Byte) (d : Bool) (k : Vector Bool 16) (n : Nat) : State :=
  { s with st := b, dirty := d, kprev := k, rndDraws := n }

section
variable (i : Instr) (s : State) (b : Byte) (d : Bool) (k : Vector Bool 16) (n : Nat)

theorem check_withUnread : i.check (s.withUnread b d k n) = i.check s := by
  cases i <;> rfl

/-- The effect reads none of the unread pieces: outside them it is the same. -/
theorem effect_withUnread (hn : n = s.rndDraws ∨ ∀ x nn, i ≠ .rnd x nn) :
    ∃ (b' : Byte) (d' : Bool) (k' : Vector Bool 16) (n' : Nat),
      i.effect (s.withUnread b d k n) = (i.effect s).withUnread b' d' k' n' := by
  cases i
  case rnd x nn =>
    obtain rfl := hn.resolve_right fun h => h x nn rfl
    exact ⟨_, _, _, _, rfl⟩
  all_goals exact ⟨_, _, _, _, rfl⟩

/-- Each unread piece that an instruction may write receives a value computed from the others. -/
theorem effect_st_withUnread (h : .soundTimer ∈ i.writes) : (i.effect (s.withUnread b d k n)).st = (i.effect s).st := by
  cases i
  case ldToST => rfl
  all_goals simp [Instr.writes] at h

theorem effect_dirty_withUnread (h : .dirty ∈ i.writes) :
    (i.effect (s.withUnread b d k n)).dirty = (i.effect s).dirty := by
  cases i
  case cls | drw => rfl
  all_goals simp [Instr.writes] at h

theorem effect_kprev_withUnread (h : .keySnapshot ∈ i.writes) :
    (i.effect (s.withUnread b d k n)).kprev = (i.effect s).kprev := by
  cases i
  case ldKey => rfl
  all_goals simp [Instr.writes] at h

theorem effect_rndDraws_withUnread (hn : n = s.rndDraws ∨ ∀ x nn, i ≠ .rnd x nn) (h : .randomDraws ∈ i.writes) :
    (i.effect (s.withUnread b d k n)).rndDraws = (i.effect s).rndDraws := by
  cases i
  case rnd x nn =>
    obtain rfl := hn.resolve_right fun h => h x nn rfl
    rfl
  all_goals simp [Instr.writes] at h

end

/-- Settles O24: check and effect see none of the four pieces, and the frame tells which of them an instruction leaves. -/
theorem instructionsIgnoreUnreadState : Obligations.InstructionsIgnoreUnreadState := by
  intro i s t b d k n hn h
  change ∃ u, exec i (s.withUnread b d k n) = .next u ∧ _
  rcases exec_cases h with ⟨hc, rfl⟩ | ⟨c, hc, rfl⟩
  · have hkeep := effect_frame i s
    have hkeep' := effect_frame i (s.withUnread b d k n)
    refine ⟨i.effect (s.withUnread b d k n), ?_, ?_, ?_, ?_, ?_, ?_⟩
    · rw [exec_eq, State.unlessFault_none (by rw [check_withUnread, hc])]
    · obtain ⟨b', d', k', n', hu⟩ := effect_withUnread i s b d k n hn
      rw [hu]
      rfl
    · exact (Decidable.em _).symm.imp (fun hw => ⟨hkeep .soundTimer hw, hkeep' .soundTimer hw⟩)
        (effect_st_withUnread i s b d k n)
    · exact (Decidable.em _).symm.imp (fun hw => ⟨hkeep .dirty hw, hkeep' .dirty hw⟩)
        (effect_dirty_withUnread i s b d k n)
    · exact (Decidable.em _).symm.imp (fun hw => ⟨hkeep .keySnapshot hw, hkeep' .keySnapshot hw⟩)
        (effect_kprev_withUnread i s b d k n)
    · exact (Decidable.em _).symm.imp (fun hw => ⟨hkeep .randomDraws hw, hkeep' .randomDraws hw⟩)
        (effect_rndDraws_withUnread i s b d k n hn)
  · refine ⟨(s.withUnread b d k n).raiseFault c (some (encode i)), ?_, rfl, .inl ⟨rfl, rfl⟩, .inl ⟨rfl, rfl⟩,
      .inl ⟨rfl, rfl⟩, .inl ⟨rfl, rfl⟩⟩
    rw [exec_eq, State.unlessFault_some (by rw [check_withUnread, hc])]

/-! ### Reset and the host's writes -/

/-- Every pixel of the cleared framebuffer is 0 (R142). -/
theorem Framebuffer.getElem_clear (px : Fin 64) (py : Fin 32) : Framebuffer.clear[py][px] = false := by
  simp [Framebuffer.clear]

/-- Settles O5: every array of the reset state is constant, and every other field is written out in it. -/
theorem resetLeavesRegistersZeroAndPcAtProgram : Obligations.ResetLeavesRegistersZeroAndPcAtProgram := by
  refine ⟨fun x => ?_, rfl, rfl, rfl, rfl, rfl, fun k => ?_, Framebuffer.getElem_clear, rfl, fun k => ?_, fun k => ?_, rfl⟩
  · simp [State.readV, State.reset]
  all_goals simp [State.reset]

/-- `K[j]` after `set_key(k, pressed)` (R163). -/
theorem State.setKey_keys (s : State) (k : KeyIdx) (pressed : Bool) (j : KeyIdx) :
    (s.setKey k pressed).keys[j] = if j = k then pressed else s.keys[j] := by
  simp [State.setKey, Vector.getElem_set, Fin.val_inj, eq_comm (a := k)]

/-- Settles O57: both commands are an update of one field. -/
theorem hostWritesKeyOrDirtyOnly : Obligations.HostWritesKeyOrDirtyOnly := by
  intro s k pressed
  refine ⟨⟨_, rfl, s.setKey_keys k pressed, ?_⟩, _, rfl, rfl, ?_⟩
  · simp [State.setKey]
  · simp [State.clearDirty]

end Sys2Proof.Machine
end

section
/-!
PROOFS. The statements of spec/20_memory.md: the invariant of memory over steps, commands and runs, the reset contents, and the
words that `withFetchWord` and `FX55` put where the next step fetches. The layer they share comes first: what a command may do to
memory, and what a step runs.
-/
namespace Sys2Proof.Machine

/-! ### What a command may do to memory -/

/-- Memory went from `m` to `m'` as R204 and R222 allow every command but `reset`: a canonical form is kept, and the interpreter
region reads as before. -/
structure Memory.Respects (m m' : Memory) : Prop where
  wf : m.wf = true → m'.wf = true
  region : ∀ a : Nat, a ≤ 0x1FF → m'.read a = m.read a

theorem Memory.Respects.refl (m : Memory) : m.Respects m := ⟨id, fun _ _ => rfl⟩

theorem Memory.Respects.of_eq {m m' : Memory} (h : m' = m) : m.Respects m' := h ▸ .refl m

/-- A transfer inside 0x200..0xFFF, as the checks of R221 and R222 let it through. -/
theorem Memory.Respects.writeBytes (m : Memory) {a : Nat} {bs : List Byte} (hlo : 0x200 ≤ a) (hhi : a + bs.length ≤ 4096) :
    m.Respects (m.writeBytes a bs) where
  wf hm := Memory.wf_writeBytes bs hm hhi
  region q hq := Memory.read_writeBytes_other bs m a (by omega)

theorem exec_respects {i : Instr} {s t : State} (h : exec i s = .next t) : s.mem.Respects t.mem := by
  rcases exec_memory h with hm | ⟨bs, hm, -, hlo, hhi⟩
  · exact .of_eq hm
  · exact hm ▸ .writeBytes s.mem hlo hhi

@[simp] theorem State.poll_mem (s : State) (x : RegIdx) : (s.poll x).mem = s.mem := by
  rcases s.poll_cases x with h | ⟨k, h⟩ <;> simp [h]

/-- Only an executed instruction can change memory: a poll and a fault leave it. -/
theorem step_respects {s t : State} (h : step s = .next t) : s.mem.Respects t.mem := by
  rcases step_cases h with ⟨_, -, rfl⟩ | ⟨x, -, rfl⟩ | ⟨-, -, rfl⟩ | ⟨-, -, -, rfl⟩ | ⟨i, -, -, -, hexec⟩
  · exact .refl _
  · exact .of_eq (s.poll_mem x)
  · exact .refl _
  · exact .refl _
  · exact exec_respects hexec

@[simp] theorem State.tick_mem (s : State) : s.tick.1.mem = s.mem := by
  rcases s.tick_cases with ⟨-, h⟩ | ⟨-, h⟩ <;> simp [h]

theorem State.loadRom_respects (s : State) (bytes : List Byte) : s.mem.Respects (s.loadRom bytes).1.mem := by
  by_cases hl : bytes.length ≤ 3232
  · rw [State.loadRom_ok hl]
    obtain ⟨hwf, hread⟩ := Memory.romLoad s.mem hl
    exact ⟨hwf, fun a ha => hread a (.inl (by omega))⟩
  · rw [State.loadRom_tooLarge (by omega)]
    exact .refl _

/-- The command `step` answers what the step answers. -/
theorem apply_step {s t : State} {reply : Reply} (h : s.apply .step = .next (t, reply)) : step s = .next t := by
  unfold State.apply at h
  cases hstep : step s with
  | next u =>
    rw [hstep] at h
    cases h
    rfl
  | fault r => nomatch r
  | refused r => simp [hstep] at h

theorem apply_respects {s t : State} {c : Command} {reply : Reply} (hc : c ≠ .reset) (h : s.apply c = .next (t, reply)) :
    s.mem.Respects t.mem := by
  cases c
  case reset => exact absurd rfl hc
  case step => exact step_respects (apply_step h)
  case loadRom bytes => cases h; exact s.loadRom_respects bytes
  case tick => cases h; exact .of_eq s.tick_mem
  case setKey => cases h; exact .refl _
  case clearDirty => cases h; exact .refl _

/-! ### The invariant -/

/-- Settles O17: reset lists no byte, so every byte reads as at reset. -/
theorem resetStateMeetsInvariant : Obligations.ResetStateMeetsInvariant := ⟨rfl, fun _ _ => rfl⟩

theorem Inv.of_respects {s t : State} (hs : Inv s) (h : s.mem.Respects t.mem) : Inv t :=
  ⟨h.wf hs.1, fun a ha => (h.region a ha).trans (hs.2 a ha)⟩

/-- Settles O18: a step respects memory. -/
theorem stepKeepsInvariant : Obligations.StepKeepsInvariant := fun _ _ hs h => hs.of_respects (step_respects h)

/-- Settles O19: `reset` establishes the invariant, and every other command respects memory. -/
theorem commandsKeepInvariant : Obligations.CommandsKeepInvariant := by
  intro s t c reply hs h
  by_cases hc : c = .reset
  · subst hc
    cases h
    exact resetStateMeetsInvariant
  · exact hs.of_respects (apply_respects hc h)

/-- Settles O21: every command but `reset` respects memory, whatever form it has. -/
theorem onlyResetWritesInterpreterRegion : Obligations.OnlyResetWritesInterpreterRegion :=
  fun _ _ _ _ hc h => (apply_respects hc h).region

/-! ### Runs -/

/-- A run of commands is its first command and the run of the others. -/
theorem applyAll_cons {s t : State} {c : Command} {cs : List Command} {rs : List Reply}
    (h : s.applyAll (c :: cs) = .next (t, rs)) :
    ∃ u reply rs', s.apply c = .next (u, reply) ∧ u.applyAll cs = .next (t, rs') := by
  rw [State.applyAll] at h
  cases hc : s.apply c with
  | next p =>
    obtain ⟨u, reply⟩ := p
    simp only [hc] at h
    cases hcs : u.applyAll cs with
    | next q =>
      obtain ⟨w, rs'⟩ := q
      simp only [hcs] at h
      cases h
      exact ⟨u, reply, rs', rfl, hcs⟩
    | fault r => nomatch r
    | refused r => simp [hcs] at h
  | fault r => nomatch r
  | refused r => simp [hc] at h

/-- What every command keeps holds of every state reached. -/
theorem Reaches.induction {P : State → Prop}
    (hkeep : ∀ (s t : State) (c : Command) (reply : Reply), P s → s.apply c = .next (t, reply) → P t) {s t : State}
    (h : Reaches s t) (hs : P s) : P t := by
  obtain ⟨cs, rs, h⟩ := h
  induction cs generalizing s rs with
  | nil => cases h; exact hs
  | cons c cs ih =>
    obtain ⟨u, reply, rs', hc, hcs⟩ := applyAll_cons h
    exact ih (hkeep s u c reply hs hc) rs' hcs

/-! ### The font table -/

theorem Params.length_fontData : Params.fontData.length = 80 := rfl

/-- Inside the font table the reset contents are `FONT_DATA` (R203). -/
theorem Memory.resetByte_font {k : Nat} (hk : k < Params.fontData.length) :
    Memory.resetByte (Params.fontBase + k) = Params.fontData[k] := by
  rw [Memory.resetByte, if_pos (Nat.le_add_right _ _), Nat.add_sub_cancel_left, List.getD_eq_getElem _ _ hk]

/-- Behind the font table they are 0 (R200). -/
theorem Memory.resetByte_above {a : Nat} (ha : 0x050 ≤ a) : Memory.resetByte a = 0 := by
  rw [Memory.resetByte, if_pos (show Params.fontBase ≤ a from Nat.zero_le a)]
  exact List.getD_eq_default _ _ ha

/-- Where the interpreter region reads as at reset, `n` bytes of the font table are those of `FONT_DATA`. -/
theorem Memory.readBytes_font {m : Memory} (hm : ∀ a : Nat, a ≤ 0x1FF → m.read a = Memory.resetByte a) {k n : Nat}
    (hn : k + n ≤ 80) : m.readBytes (Params.fontBase + k) n = (Params.fontData.drop k).take n := by
  have hlen := Params.length_fontData
  refine List.ext_getElem (by simp; omega) fun j hj _ => ?_
  rw [Memory.length_readBytes] at hj
  rw [Memory.getElem_readBytes, List.getElem_take, List.getElem_drop, Nat.add_assoc, hm _ (by rw [Params.fontBase]; omega),
    Memory.resetByte_font (by omega)]

/-- Settles O6: the glyphs are parts of the font table, and the table ends at 0x050. -/
theorem resetMemoryHoldsFontAndZeros : Obligations.ResetMemoryHoldsFontAndZeros := by
  have hfont {k n : Nat} (hn : k + n ≤ 80) : State.reset.mem.readBytes k n = (Params.fontData.drop k).take n :=
    calc State.reset.mem.readBytes k n
      _ = State.reset.mem.readBytes (Params.fontBase + k) n := by rw [Params.fontBase, Nat.zero_add]
      _ = (Params.fontData.drop k).take n := Memory.readBytes_font (fun _ _ => rfl) hn
  refine ⟨fun d => ?_, hfont (by omega), hfont (by omega), hfont (by omega), fun a ha => Memory.resetByte_above ha⟩
  rw [Nat.zero_add]
  exact hfont (by omega)

/-- Settles O20: the invariant holds at reset and every command keeps it. -/
theorem reachableStatesKeepFontTable : Obligations.ReachableStatesKeepFontTable := by
  intro t ht
  obtain ⟨hwf, hregion⟩ := ht.induction commandsKeepInvariant resetStateMeetsInvariant
  exact ⟨hwf, Memory.readBytes_font hregion (k := 0) (n := 80) (by omega)⟩

/-! ### What a step runs -/

/-- A running machine in range executes the instruction its word decodes to (R313). -/
theorem step_of_decodeWord {s : State} {i : Instr} (hs : s.status = .running) (hp : s.pcInRange = true)
    (hd : decodeWord s.fetchWord = .ok i) : step s = exec i s := by
  simp [step, hs, State.fetchInstr_inRange hp, hd]

/-- The word fetched where a transfer has stored at least two bytes is those of the first two. -/
theorem fetchWord_of_writeBytes {t : State} {m : Memory} {hi lo : Byte} {bs : List Byte} (hm : m.wf = true)
    (ht : t.mem = m.writeBytes t.pc.toNat (hi :: lo :: bs)) (hend : t.pc.toNat + (bs.length + 2) ≤ 4096) :
    t.fetchWord = composeWord hi lo := by
  have hread {k : Nat} (hk : k < (hi :: lo :: bs).length) : t.readByte (t.pc.toNat + k) = (hi :: lo :: bs)[k] := by
    rw [State.readByte, ht]
    exact Memory.read_writeBytes_at _ hm hend hk
  have hhi : t.readByte t.pc.toNat = hi := hread (k := 0) (by simp)
  have hlo : t.readByte (t.pc.toNat + 1) = lo := hread (k := 1) (by simp)
  rw [State.fetchWord, hhi, hlo]

/-! ### The word `withFetchWord` places -/

theorem State.placeWord_pcInRange (s : State) (w : Word) : (s.placeWord w).pcInRange = true := by
  rw [State.placeWord]
  cases hp : s.pcInRange with
  | true => exact hp
  | false => rfl

theorem State.placeWord_status (s : State) (w : Word) : (s.placeWord w).status = .running := rfl

theorem State.placeWord_mem (s : State) (w : Word) :
    (s.placeWord w).mem = s.mem.writeBytes (s.placeWord w).pc.toNat [highByte w, lowByte w] := by
  rw [State.placeWord]
  cases s.pcInRange <;> rfl

theorem State.placeWord_fetchWord {s : State} (hs : s.mem.wf = true) (w : Word) : (s.placeWord w).fetchWord = w := by
  have hpc := (State.pcInRange_iff _).mp (s.placeWord_pcInRange w)
  rw [fetchWord_of_writeBytes hs (s.placeWord_mem w) (by simp; omega), composeWord_bytes]

/-- The host's entry decodes the word `withFetchWord` places. -/
theorem decodeTableWord_eq_some {nbits w : Nat} {i : Instr} (h : decodeTableWord nbits w = some i) :
    decodeWord (BitVec.ofNat 16 (w % 2 ^ nbits)) = .ok i := by
  simp only [decodeTableWord, decode_two, composeWord_bytes] at h
  cases hd : decodeWord (BitVec.ofNat 16 (w % 2 ^ nbits)) with
  | ok j => simpa [hd] using h
  | error r => simp [hd] at h

/-- Settles O9: the placed word lies in range at a running machine, and reads back. -/
theorem placedWordRunsNext : Obligations.PlacedWordRunsNext := by
  intro s w i hs h
  refine step_of_decodeWord (State.placeWord_status _ _) (State.placeWord_pcInRange _ _) ?_
  rw [State.withFetchWord, State.placeWord_fetchWord hs]
  exact decodeTableWord_eq_some h

/-! ### The instruction `FX55` stores -/

/-- The encoder's word decodes back (R309). The row count of `DXYN` is the one field that well-formedness bounds. -/
theorem decodeWord_encode {i : Instr} (h : i.wellFormed = true) : decodeWord (encode i) = .ok i := by
  cases i
  case drw x y n =>
    have hn : n ≤ 15 := by simpa [Instr.wellFormed] using h
    simp [encode, decodeWord, Nat.mod_eq_of_lt (show n < 16 by omega)]
  case cls | ret => rfl
  all_goals simp [encode, decodeWord, decodeIfN0, decodeFamily8, decodeFamilyE, decodeFamilyF]

/-- `FX55` completes wherever its whole range lies in 0x200..0xFFF (R221, R704). -/
theorem exec_storeRegs {s : State} {x : RegIdx} (hlo : 0x200 ≤ s.i.toNat) (hhi : s.i.toNat + (x.val + 1) ≤ 4096) :
    exec (.storeRegs x) s = .next ((s.setMem (s.mem.writeBytes s.i.toNat (s.regsUpTo x))).advance) := by
  rw [exec_eq]
  exact State.unlessFault_none ((checkWrite_eq_none_iff s.i (by omega)).mpr ⟨hlo, hhi⟩)

/-- With X at least 1, the first two bytes that `FX55` stores are `V0` and `V1`. -/
theorem State.regsUpTo_eq_cons_cons (s : State) {x : RegIdx} (hx : 1 ≤ x.val) :
    ∃ bs : List Byte, s.regsUpTo x = s.readV 0 :: s.readV 1 :: bs ∧ bs.length + 2 = x.val + 1 := by
  have hlen := s.length_regsUpTo x
  match hr : s.regsUpTo x with
  | [] => simp [hr] at hlen
  | [_] => simp [hr] at hlen; omega
  | a :: b :: bs =>
    have h0 := s.getElem_regsUpTo x (k := 0) (by omega)
    have h1 := s.getElem_regsUpTo x (k := 1) (by omega)
    simp only [hr, List.getElem_cons_zero, List.getElem_cons_succ] at h0 h1
    subst h0 h1
    exact ⟨bs, rfl, by rw [← hlen, hr]; rfl⟩

/-- Settles O26: the step after the store fetches `V0` and `V1`, the bytes of the instruction. -/
theorem storedInstructionRunsNext : Obligations.StoredInstructionRunsNext := by
  intro x s t j hwf hrun hx hi hlo hhi hj hv0 hv1 h
  have hxlt := x.isLt
  obtain ⟨bs, hbs, hlen⟩ := s.regsUpTo_eq_cons_cons hx
  rw [exec_storeRegs hlo (by omega), hbs] at h
  have ht := Host.Outcome.next.inj h
  have hpc : t.pc = s.i := by rw [← ht, hi]; rfl
  have hmem : t.mem = s.mem.writeBytes t.pc.toNat (s.readV 0 :: s.readV 1 :: bs) := by rw [hpc, ← ht]; rfl
  have hword : t.fetchWord = encode j := by
    rw [fetchWord_of_writeBytes hwf hmem (by rw [hpc]; omega), hv0, hv1, composeWord_bytes]
  refine step_of_decodeWord (by rw [← ht]; exact hrun) ?_ (by rw [hword, decodeWord_encode hj])
  rw [State.pcInRange_iff, hpc]
  exact ⟨hlo, hhi⟩

end Sys2Proof.Machine
end

section
/-!
PROOFS. The statements of spec/30_encoding.md. The layer they share comes first: when two bytes decode, which word a decoded
instruction encodes to, and what a row of the opcode map says of the fields of the words it selects.
-/
namespace Sys2Proof

/-- Two bytes decode exactly where their word does, and what follows them is left over. -/
theorem decode_eq_ok_iff {hi lo : Byte} {rest rest' : List Byte} {i : Instr} :
    decode (hi :: lo :: rest) = .ok (i, rest') ↔ decodeWord (composeWord hi lo) = .ok i ∧ rest = rest' := by
  rw [decode_two]
  cases decodeWord (composeWord hi lo) <;> simp

/-- Settles O1: the seventeen words and the rejected one are closed terms, which the decoder evaluates. -/
theorem specWordsDecode : Obligations.SpecWordsDecode := by
  and_intros <;> rfl

/-- Settles O2: the two bytes are those of the word the instruction encodes to, and that word decodes back. -/
theorem decodeOfEncodeGivesInstruction : Obligations.DecodeOfEncodeGivesInstruction := by
  intro i rest hi
  rw [decode_eq_ok_iff, composeWord_bytes]
  exact ⟨Machine.decodeWord_encode hi, rfl⟩

/-! ### What a decoded instruction encodes to

The decoder takes a word apart and the encoder puts its fields together again. A field the decoder has compared with a constant
is that constant. -/

/-- `i` is an instruction of the hardware, and `w` is its word. -/
structure Instr.EncodesTo (i : Instr) (w : Word) : Prop where
  wellFormed : i.wellFormed = true
  word : encode i = w

section
variable {w : Word} {t : BitVec 4}

theorem formNNN_fields (ht : fieldT w = t) : formNNN t (fieldNNN w) = w := by
  rw [← ht, ← eq_formNNN]

theorem formXNN_fields {nn : Byte} (ht : fieldT w = t) (hnn : fieldNN w = nn) :
    formXNN t (regOfNibble (fieldX w)) nn = w := by
  rw [← ht, ← hnn, ← eq_formXNN]

theorem formXYN_fields {n : BitVec 4} (ht : fieldT w = t) (hn : fieldN w = n) :
    formXYN t (regOfNibble (fieldX w)) (regOfNibble (fieldY w)) n = w := by
  rw [← ht, ← hn, ← eq_formXYN]

variable {i : Instr}

theorem decodeFamily0_ok (h : decodeFamily0 w = .ok i) : i.EncodesTo w := by
  unfold decodeFamily0 at h
  split_ifs at h with hcls hret
  · cases h; exact ⟨rfl, hcls.symm⟩
  · cases h; exact ⟨rfl, hret.symm⟩

theorem decodeIfN0_ok {j : Instr} (h : decodeIfN0 w j = .ok i) : fieldN w = 0x0#4 ∧ i = j := by
  unfold decodeIfN0 at h
  split_ifs at h with hn
  exact ⟨hn, (Except.ok.inj h).symm⟩

theorem decodeFamily8_ok (ht : fieldT w = 0x8#4) (h : decodeFamily8 w = .ok i) : i.EncodesTo w := by
  unfold decodeFamily8 at h
  dsimp only at h
  split at h
  case h_10 => cases h
  all_goals
    rename_i hn
    cases h
    exact ⟨rfl, formXYN_fields ht (BitVec.eq_of_toNat_eq hn)⟩

theorem decodeFamilyE_ok (ht : fieldT w = 0xE#4) (h : decodeFamilyE w = .ok i) : i.EncodesTo w := by
  unfold decodeFamilyE at h
  split_ifs at h
  all_goals
    cases h
    exact ⟨rfl, formXNN_fields ht ‹_›⟩

theorem decodeFamilyF_ok (ht : fieldT w = 0xF#4) (h : decodeFamilyF w = .ok i) : i.EncodesTo w := by
  unfold decodeFamilyF at h
  split_ifs at h
  all_goals
    cases h
    exact ⟨rfl, formXNN_fields ht ‹_›⟩

/-- What decodes is an instruction of the hardware, and the word is its own. Arm `k` of the decoder is family `k - 1`. -/
theorem decodeWord_ok (h : decodeWord w = .ok i) : i.EncodesTo w := by
  unfold decodeWord at h
  dsimp only at h
  split at h
  case h_1 => exact decodeFamily0_ok h
  case h_2 ht | h_3 ht | h_11 ht | h_12 ht =>
    cases h
    exact ⟨rfl, formNNN_fields (BitVec.eq_of_toNat_eq ht)⟩
  case h_4 ht | h_5 ht | h_7 ht | h_8 ht | h_13 ht =>
    cases h
    exact ⟨rfl, formXNN_fields (BitVec.eq_of_toNat_eq ht) rfl⟩
  case h_6 ht | h_10 ht =>
    obtain ⟨hn, rfl⟩ := decodeIfN0_ok h
    exact ⟨rfl, formXYN_fields (BitVec.eq_of_toNat_eq ht) hn⟩
  case h_9 ht => exact decodeFamily8_ok (BitVec.eq_of_toNat_eq ht) h
  case h_14 ht =>
    cases h
    exact ⟨decide_eq_true (Nat.le_of_lt_succ (fieldN w).isLt), formXYN_fields (BitVec.eq_of_toNat_eq ht) (by simp)⟩
  case h_15 ht => exact decodeFamilyE_ok (BitVec.eq_of_toNat_eq ht) h
  case h_16 =>
    have hlt := (fieldT w).isLt
    have ht : (fieldT w).toNat = 15 := by grind
    exact decodeFamilyF_ok (BitVec.eq_of_toNat_eq ht) h

end

/-- Settles O3: the word of the two bytes is the instruction's own, and its bytes are the two. -/
theorem encodeOfDecodeGivesBytes : Obligations.EncodeOfDecodeGivesBytes := by
  intro hi lo rest rest' i h
  obtain ⟨hw, rfl⟩ := decode_eq_ok_iff.mp h
  obtain ⟨hwf, hword⟩ := decodeWord_ok hw
  exact ⟨hwf, rfl, by rw [hword, highByte_composeWord], by rw [hword, lowByte_composeWord]⟩

/-! ### The rows of the opcode map

A mask keeps whole fields. So a word a row selects has the fields the row's match prints, and those are what the decoder looks
at. -/

theorem fieldT_and (w m : Word) : fieldT (w &&& m) = fieldT w &&& fieldT m := BitVec.extractLsb'_and
theorem fieldN_and (w m : Word) : fieldN (w &&& m) = fieldN w &&& fieldN m := BitVec.extractLsb'_and
theorem fieldNN_and (w m : Word) : fieldNN (w &&& m) = fieldNN w &&& fieldNN m := BitVec.extractLsb'_and

theorem OpcodeRow.selects_iff {r : OpcodeRow} {w : Word} : r.selects w = true ↔ w &&& r.mask = r.pattern := beq_iff_eq

/-- The word of an instruction selects the instruction's row. -/
theorem Instr.row_selects_encode (i : Instr) : i.row.selects (encode i) = true := by
  cases i
  case cls | ret => exact Laws.EncodesItsRow.of_eq rfl
  case jp | call | ldI | jpV0 => exact Laws.EncodesItsRow.of_eq (formNNN_mask_family _ _)
  case seImm | sneImm | ldImm | addImm | rnd => exact Laws.EncodesItsRow.of_eq (formXNN_mask_family _ _ _)
  case drw => exact Laws.EncodesItsRow.of_eq (formXYN_mask_family _ _ _ _)
  case seReg | sneReg | ldReg | orReg | andReg | xorReg | addReg | subReg | shr | subn | shl =>
    exact Laws.EncodesItsRow.of_eq (formXYN_mask_nibble _ _ _ _)
  all_goals exact Laws.EncodesItsRow.of_eq (formXNN_mask_low _ _ _)

section
variable {w m p : Word} (h : w &&& m = p)
include h

theorem fieldT_of_mask (hm : fieldT m = 0xF#4) : fieldT w = p.extractLsb' 12 4 := by
  rw [← h, ← fieldT, fieldT_and, hm]
  exact BitVec.and_allOnes.symm

theorem fieldN_of_mask (hm : fieldN m = 0xF#4) : fieldN w = p.extractLsb' 0 4 := by
  rw [← h, ← fieldN, fieldN_and, hm]
  exact BitVec.and_allOnes.symm

theorem fieldNN_of_mask (hm : fieldNN m = 0xFF#8) : fieldNN w = p.extractLsb' 0 8 := by
  rw [← h, ← fieldNN, fieldNN_and, hm]
  exact BitVec.and_allOnes.symm

end

/-- A word that selects a row decodes to an instruction of that row. -/
theorem decodeWord_of_selects {i : Instr} {w : Word} (h : i.row.selects w = true) :
    ∃ j, decodeWord w = .ok j ∧ j.row = i.row := by
  rw [OpcodeRow.selects_iff] at h
  cases i <;> dsimp only [Instr.row] at h
  case cls | ret =>
    obtain rfl := BitVec.and_allOnes.symm.trans h
    exact ⟨_, rfl, rfl⟩
  case jp | call | ldI | jpV0 | seImm | sneImm | ldImm | addImm | rnd | drw =>
    have ht := fieldT_of_mask h rfl
    simp [decodeWord, ht, Instr.row]
  case seReg | sneReg | ldReg | orReg | andReg | xorReg | addReg | subReg | shr | subn | shl =>
    have ht := fieldT_of_mask h rfl
    have hn := fieldN_of_mask h rfl
    simp [decodeWord, decodeIfN0, decodeFamily8, ht, hn, Instr.row]
  all_goals
    have ht := fieldT_of_mask h rfl
    have hnn := fieldNN_of_mask h rfl
    simp [decodeWord, decodeFamilyE, decodeFamilyF, ht, hnn, Instr.row]

theorem exists_row_of_mem_opcodeMap {r : OpcodeRow} (h : r ∈ opcodeMap) : ∃ i : Instr, i.row = r := by
  obtain ⟨i, -, hi⟩ := List.mem_map.mp h
  exact ⟨i, hi⟩

/-- Settles O4: a word that selects a row decodes to an instruction of that row, and the word of a decoded instruction selects
its row. -/
theorem everyWordSelectsItsRowOrIsUnknown : Obligations.EveryWordSelectsItsRowOrIsUnknown := by
  intro w
  cases hd : decodeWord w with
  | ok i =>
    refine .inl ⟨i, rfl, fun r hr => ⟨fun h => ?_, ?_⟩⟩
    · obtain ⟨k, rfl⟩ := exists_row_of_mem_opcodeMap hr
      obtain ⟨j, hj, hrow⟩ := decodeWord_of_selects h
      rw [← hrow, Except.ok.inj (hd.symm.trans hj)]
    · rintro rfl
      exact (decodeWord_ok hd).word ▸ i.row_selects_encode
  | error e =>
    refine .inr ⟨by rw [Machine.decodeWord_error hd], fun r hr => Bool.eq_false_iff.mpr fun h => ?_⟩
    obtain ⟨k, rfl⟩ := exists_row_of_mem_opcodeMap hr
    obtain ⟨j, hj, -⟩ := decodeWord_of_selects h
    exact nomatch hd.symm.trans hj

end Sys2Proof

namespace Sys2Proof.Machine

/-! ### The step -/

theorem State.unlessFault_next (s t : State) (i : Instr) (c : Option FaultCause) : ∃ u, s.unlessFault i c t = .next u := by
  cases c with
  | none => exact ⟨_, State.unlessFault_none rfl⟩
  | some cause => exact ⟨_, State.unlessFault_some rfl⟩

/-- Every instruction answers a next state: its fault, or its effect. -/
theorem exec_next (i : Instr) (s : State) : ∃ t, exec i s = .next t :=
  exec_eq i s ▸ State.unlessFault_next ..

/-- Settles O14: a halted, a waiting and a fault-taking machine answer at once, and an executed instruction answers. -/
theorem stepNeverStops : Obligations.StepNeverStops := by
  intro s
  rw [step]
  cases s.status with
  | faulted r => exact ⟨s, rfl⟩
  | awaitingKey x => exact ⟨s.poll x, rfl⟩
  | running =>
    cases s.fetchInstr with
    | ok i => exact exec_next i s
    | error e => exact ⟨_, rfl⟩

/-- Settles O8: the two bytes at `pc` are those of the fetched word. -/
theorem stepExecutesDecodedInstruction : Obligations.StepExecutesDecodedInstruction :=
  fun s _ _ hs hlo hhi hd => step_of_decodeWord hs (s.pcInRange_iff.mpr ⟨hlo, hhi⟩) (decode_eq_ok_iff.mp hd).1

end Sys2Proof.Machine
end

section
/-!
PROOFS. The statements of spec/40_display.md. The layer they share comes first: where a sprite's bits fall under either edge policy,
what a completed draw leaves in pixels and `VF`, and when `DXYN` completes.
-/
namespace Sys2Proof.Machine

/-- Settles O49: the effect of `CLS` stores the clear framebuffer and sets `dirty`. -/
theorem clearScreenClearsEveryPixel : Obligations.ClearScreenClearsEveryPixel :=
  fun s => ⟨rfl, _, rfl, Framebuffer.getElem_clear, rfl, rfl, effect_frame .cls s⟩

/-! ### Where a sprite's bits fall -/

/-- A set bit of the sprite at `I` falls on pixel `(px, py)` under edge policy `p` (R402, R403, R404). -/
def SpriteHitsUnder (p : EdgePolicy) (s : State) (x y : RegIdx) (n : Nat) (px : Fin 64) (py : Fin 32) : Prop :=
  ∃ row col : Nat, row < n ∧ col < 8 ∧ (s.readByte (s.i.toNat + row)).getLsbD (7 - col) = true ∧
    spritePixel p (s.readV x).toNat (s.readV y).toNat col row = some (px, py)

theorem spritePixel_wrap_eq_some_iff {x0 y0 col row : Nat} {px : Fin 64} {py : Fin 32} :
    spritePixel .wrap x0 y0 col row = some (px, py) ↔ px.val = (x0 + col) % 64 ∧ py.val = (y0 + row) % 32 := by
  simp [spritePixel, Fin.ext_iff, eq_comm]

/-- A pixel index is below the screen's size, so a sum equal to one has not left the screen. -/
theorem spritePixel_clip_eq_some_iff {x0 y0 col row : Nat} {px : Fin 64} {py : Fin 32} :
    spritePixel .clip x0 y0 col row = some (px, py) ↔ px.val = x0 % 64 + col ∧ py.val = y0 % 32 + row := by
  have hpx := px.isLt
  have hpy := py.isLt
  simp only [spritePixel]
  split
  · simp [Fin.ext_iff, eq_comm]
  · simp only [reduceCtorEq, false_iff]
    omega

theorem spriteHitsUnder_wrap {s : State} {x y : RegIdx} {n : Nat} {px : Fin 64} {py : Fin 32} :
    SpriteHitsUnder .wrap s x y n px py ↔ SpriteHits s x y n px py := by
  simp only [SpriteHitsUnder, SpriteHits, spritePixel_wrap_eq_some_iff]

theorem spriteHitsUnder_clip {s : State} {x y : RegIdx} {n : Nat} {px : Fin 64} {py : Fin 32} :
    SpriteHitsUnder .clip s x y n px py ↔ SpriteHitsClipped s x y n px py := by
  simp only [SpriteHitsUnder, SpriteHitsClipped, spritePixel_clip_eq_some_iff]

/-- Where a sprite falls depends on memory, `I` and the two coordinate registers alone. -/
theorem SpriteHitsUnder.congr {p : EdgePolicy} {s u : State} {x y : RegIdx} {n : Nat} {px : Fin 64} {py : Fin 32}
    (hmem : ∀ a : Nat, u.readByte a = s.readByte a) (hi : u.i = s.i) (hx : u.readV x = s.readV x) (hy : u.readV y = s.readV y) :
    SpriteHitsUnder p u x y n px py ↔ SpriteHitsUnder p s x y n px py := by
  simp only [SpriteHitsUnder, hmem, hi, hx, hy]

/-! ### What a completed draw leaves -/

/-- The state `DXYN` leaves under edge policy `p` when its check passes. -/
def State.afterDraw (p : EdgePolicy) (x y : RegIdx) (n : Nat) (s : State) : State :=
  ((s.setFB (s.drawn p x y n).fb).setDirty true).finish VF (flagByte (s.drawn p x y n).collision)

theorem flagByte_eq_one_iff {f : Bool} : flagByte f = 1 ↔ f = true := by
  cases f <;> decide

/-- A flag that tells whether `P` holds is 1 or 0 accordingly. -/
theorem flagByte_cases {f : Bool} {P : Prop} (h : f = true ↔ P) : flagByte f = 1 ∧ P ∨ flagByte f = 0 ∧ ¬P := by
  cases f with
  | true => exact .inl ⟨rfl, h.mp rfl⟩
  | false => exact .inr ⟨rfl, fun hP => Bool.false_ne_true (h.mpr hP)⟩

section
variable {p : EdgePolicy} {x y : RegIdx} {n : Nat} {s : State}

theorem State.afterDraw_pixel (px : Fin 64) (py : Fin 32) : (s.afterDraw p x y n).pixel px py = (s.drawn p x y n).fb[py][px] := rfl

@[simp] theorem State.afterDraw_readV_VF : (s.afterDraw p x y n).readV VF = flagByte (s.drawn p x y n).collision := by
  rw [State.afterDraw, State.readV_finish, if_pos rfl]

theorem State.afterDraw_regsExcept : RegsExcept [VF] s (s.afterDraw p x y n) :=
  regsExcept_finish _ rfl List.mem_cons_self

theorem State.afterDraw_frame : Frame [.regs, .screen, .dirty, .pc] s (s.afterDraw p x y n) := by
  simp [State.afterDraw]

variable (hn : n ≤ 15)
include hn

/-- The pixels that change are those the sprite hits. -/
theorem State.afterDraw_pixel_ne_iff {px : Fin 64} {py : Fin 32} :
    (s.afterDraw p x y n).pixel px py ≠ s.pixel px py ↔ SpriteHitsUnder p s x y n px py := by
  obtain ⟨hits, hmem, hpixel, -⟩ := s.drawn_spec p x y hn
  rw [State.afterDraw_pixel, hpixel, SpriteHitsUnder, ← hmem]
  by_cases hhit : (px, py) ∈ hits <;> simp [hhit]

theorem State.drawn_collision_iff_hits :
    (s.drawn p x y n).collision = true ↔
      ∃ (px : Fin 64) (py : Fin 32), SpriteHitsUnder p s x y n px py ∧ s.pixel px py = true := by
  obtain ⟨hits, hmem, -, hcoll⟩ := s.drawn_spec p x y hn
  simp only [hcoll, Prod.exists, hmem, SpriteHitsUnder]

/-- A hit pixel that was set is one that went from set to unset. -/
theorem State.drawn_collision_iff_cleared :
    (s.drawn p x y n).collision = true ↔
      ∃ (px : Fin 64) (py : Fin 32), s.pixel px py = true ∧ (s.afterDraw p x y n).pixel px py = false := by
  rw [State.drawn_collision_iff_hits hn]
  refine exists₂_congr fun px py => ?_
  rw [← State.afterDraw_pixel_ne_iff hn, and_comm]
  refine and_congr_right fun hset => ?_
  rw [hset, Ne, Bool.not_eq_true]

end

/-! ### When `DXYN` completes -/

section
variable {s : State} {n : Nat}

theorem checkRead_of_spriteReadable (h : SpriteReadable s n) : checkRead s.i n = none :=
  (checkRead_eq_none_iff s.i n).mpr (h.imp_right (by omega))

theorem checkRead_of_not_spriteReadable (h : ¬ SpriteReadable s n) :
    checkRead s.i n = some (.boundsFault (.readOutOfRange s.i n)) := by
  obtain ⟨hpos, hend⟩ := not_or.mp h
  exact checkRead_eq_some (by omega)

theorem execDrwUnder_of_readable (p : EdgePolicy) (x y : RegIdx) (h : SpriteReadable s n) :
    execDrwUnder p x y n s = .next (s.afterDraw p x y n) :=
  State.unlessFault_none (checkRead_of_spriteReadable h)

theorem execDrwUnder_of_not_readable (p : EdgePolicy) (x y : RegIdx) (h : ¬ SpriteReadable s n) :
    execDrwUnder p x y n s = .next (s.raiseFault (.boundsFault (.readOutOfRange s.i n)) (some (encode (.drw x y n)))) :=
  State.unlessFault_some (checkRead_of_not_spriteReadable h)

/-- `DXYN` draws under `wrap`, the value of the machine's edge policy (R403). -/
theorem exec_drw_of_readable (x y : RegIdx) (h : SpriteReadable s n) :
    exec (.drw x y n) s = .next (s.afterDraw .wrap x y n) :=
  execDrwUnder_of_readable .wrap x y h

end

/-- Settles O50: the draw under `wrap`, whose collision is told by the pixels it cleared. -/
theorem drawXorsSpriteAndReportsCollision : Obligations.DrawXorsSpriteAndReportsCollision := by
  intro x y n s hn
  refine ⟨formXYN_mask_family _ _ _ _, fun hr => ?_, fun hr => execDrwUnder_of_not_readable .wrap x y hr⟩
  refine ⟨_, exec_drw_of_readable x y hr, fun px py => ?_, ?_, rfl, rfl, State.afterDraw_regsExcept, State.afterDraw_frame⟩
  · rw [State.afterDraw_pixel_ne_iff hn, spriteHitsUnder_wrap]
  · rw [State.afterDraw_readV_VF]
    exact flagByte_cases (State.drawn_collision_iff_cleared hn)

/-- Settles O51: the draw under `clip`, whose collision is told by the set pixels it hit. -/
theorem clippedDrawDiscardsOffscreenPixels : Obligations.ClippedDrawDiscardsOffscreenPixels := by
  intro x y n s hn
  refine ⟨fun hr => ?_, fun hr => execDrwUnder_of_not_readable .clip x y hr⟩
  refine ⟨_, execDrwUnder_of_readable .clip x y hr, fun px py => ?_, ?_, rfl, rfl, State.afterDraw_regsExcept,
    State.afterDraw_frame⟩
  · rw [State.afterDraw_pixel_ne_iff hn, spriteHitsUnder_clip]
  · simp only [State.afterDraw_readV_VF, ← spriteHitsUnder_clip]
    exact flagByte_cases (State.drawn_collision_iff_hits hn)

/-! ### Two draws of one sprite -/

/-- Drawing again on the screen that a draw left flips the same pixels back (R405). -/
theorem State.afterDraw_afterDraw_pixel {p : EdgePolicy} {x y : RegIdx} {n : Nat} {s u : State} (hn : n ≤ 15)
    (hfb : u.fb = (s.afterDraw p x y n).fb) (hmem : ∀ a : Nat, u.readByte a = s.readByte a) (hi : u.i = s.i)
    (hx : u.readV x = s.readV x) (hy : u.readV y = s.readV y) (px : Fin 64) (py : Fin 32) :
    (u.afterDraw p x y n).pixel px py = s.pixel px py := by
  have hfirst : u.pixel px py ≠ s.pixel px py ↔ SpriteHitsUnder p s x y n px py := by
    rw [State.pixel_congr hfb, State.afterDraw_pixel_ne_iff hn]
  have hsecond : (u.afterDraw p x y n).pixel px py ≠ u.pixel px py ↔ SpriteHitsUnder p s x y n px py := by
    rw [State.afterDraw_pixel_ne_iff hn, SpriteHitsUnder.congr hmem hi hx hy]
  by_cases hhit : SpriteHitsUnder p s x y n px py
  · rw [Bool.eq_not_of_ne (hsecond.mpr hhit), Bool.eq_not_of_ne (hfirst.mpr hhit), Bool.not_not]
  · rw [not_ne_iff.mp (mt hsecond.mp hhit), not_ne_iff.mp (mt hfirst.mp hhit)]

/-- Settles O52: the pixels the second draw clears are those the first one set. -/
theorem drawingTwiceRestoresScreen : Obligations.DrawingTwiceRestoresScreen := by
  intro x y n s t u hn hr ht hfb hmem hi hx hy
  rw [exec_drw_of_readable x y hr] at ht
  obtain rfl := Host.Outcome.next.inj ht
  have hru : SpriteReadable u n := by rwa [SpriteReadable, hi]
  have hrestored := State.afterDraw_afterDraw_pixel hn hfb hmem hi hx hy
  refine ⟨_, exec_drw_of_readable x y hru, hrestored, ?_⟩
  rw [State.afterDraw_readV_VF, flagByte_eq_one_iff, State.drawn_collision_iff_cleared hn]
  simp only [hrestored, State.pixel_congr hfb, and_comm]

/-- The reset state with every pixel set. `I` is 0, where the glyph of digit 0 lies, with first byte 0xF0. -/
def State.litScreen : State := State.reset.setFB (Vector.replicate 32 (Vector.replicate 64 true))

/-- Refutes O53: on the lit screen the first draw of the byte 0xF0 clears four pixels, and the second sets them again. -/
theorem not_secondDrawAlwaysCollides : ¬ Obligations.SecondDrawAlwaysCollides := by
  intro h
  have hhit : SpriteHits State.litScreen 0 0 1 0 0 := ⟨0, 0, by decide⟩
  have hflag := h 0 0 1 State.litScreen _ _ _ (by decide) (.inr (by decide)) rfl rfl (fun _ => rfl) rfl rfl rfl ⟨0, 0, hhit⟩ rfl
  exact absurd hflag (by decide)

end Sys2Proof.Machine
end

section
/-!
PROOFS. The statements of spec/41_control_flow.md. The layer they share comes first: an instruction as its check decides, the
values of the jump targets, a running machine after a jump out of range, and where a skip goes.
-/
namespace Sys2Proof.Machine

/-- An instruction whose check passes completes. -/
theorem exec_of_check_none {i : Instr} {s : State} (h : i.check s = none) : exec i s = .next (i.effect s) := by
  rw [exec_eq, State.unlessFault_none h]

/-- An instruction whose check fails takes the fault it found (R901). -/
theorem faultsWith_of_check_some {i : Instr} {s : State} {c : FaultCause} (h : i.check s = some c) : FaultsWith i s c := by
  rw [FaultsWith, exec_eq, State.unlessFault_some h]
  rfl

/-! ### Jumps -/

theorem toNat_zextAddr (nnn : Addr12) : (zextAddr nnn).toNat = nnn.toNat :=
  BitVec.toNat_setWidth_of_le (by omega)

theorem toNat_zextByte (b : Byte) : (zextByte b).toNat = b.toNat :=
  BitVec.toNat_setWidth_of_le (by omega)

/-- The sum of a 12-bit and an 8-bit number is at most 0x10FE, so 16 bits hold it (R508). -/
theorem toNat_indexedTarget (nnn : Addr12) (v0 : Byte) : (indexedTarget nnn v0).toNat = nnn.toNat + v0.toNat := by
  have hnnn := nnn.isLt
  have hv0 := v0.isLt
  rw [indexedTarget, BitVec.toNat_add, toNat_zextAddr, toNat_zextByte, Nat.mod_eq_of_lt (by omega)]

/-- A running machine whose jump went out of range faults at the next step (R113, R502, R508). -/
theorem step_setPc_outOfRange {s : State} {a : Word} (hs : s.status = .running) (ha : a.toNat < 0x200 ∨ 0xE9F < a.toNat) :
    step (s.setPc a) = .next { s.setPc a with status := .faulted ⟨.programCounterOutOfRange, a, none⟩ } :=
  pcOutOfRangeFaultsAtFetch.1 (s.setPc a) hs ha

/-- Settles O27: `JP` checks nothing, and its target is `NNN` at 16 bits. -/
theorem jumpGoesToTarget : Obligations.JumpGoesToTarget := by
  intro nnn s
  have hpc := toNat_zextAddr nnn
  exact ⟨formNNN_mask_family _ _, _, rfl, hpc, effect_frame (.jp nnn) s,
    fun hs hout => step_setPc_outOfRange hs (by rwa [hpc])⟩

/-- Settles O28: `JP V0` checks nothing, and its target does not wrap. -/
theorem indexedJumpAddsV0 : Obligations.IndexedJumpAddsV0 := fun nnn s =>
  ⟨formNNN_mask_family _ _, _, rfl, toNat_indexedTarget nnn _, effect_frame (.jpV0 nnn) s, step_setPc_outOfRange⟩

/-! ### Calls and returns -/

/-- The entries after a call: the return address at `sp`, the others as they were (R503). -/
theorem effect_call_stack (nnn : Addr12) (s : State) (k : Fin 16) :
    ((Instr.call nnn).effect s).stack[k] = if k.val = s.sp.val then s.pc + 2 else s.stack[k] := by
  simp [Instr.effect, Vector.getElem_setIfInBounds, eq_comm (a := s.sp.val)]

theorem effect_call_sp {s : State} (h : s.sp.val < 16) (nnn : Addr12) :
    ((Instr.call nnn).effect s).sp.val = s.sp.val + 1 :=
  Fin.val_add_one_of_lt' (by omega)

/-- A call that completes leaves `status`, which only its fault writes (R503). -/
theorem effect_call_frame (nnn : Addr12) (s : State) : Frame [.stack, .pc] s ((Instr.call nnn).effect s) := by
  simp [Instr.effect]

/-- Settles O29: the check of `CALL` compares `sp` with 16, and its effect is a push of `pc + 2` and a jump. -/
theorem callPushesReturnAddress : Obligations.CallPushesReturnAddress := by
  intro nnn s
  refine ⟨formNNN_mask_family _ _, fun hroom => ?_, fun hfull => faultsWith_of_check_some (if_pos hfull)⟩
  exact ⟨_, exec_of_check_none (if_neg (Nat.ne_of_lt hroom)), effect_call_sp hroom nnn, effect_call_stack nnn s,
    toNat_zextAddr nnn, effect_call_frame nnn s⟩

/-- A return from depth `k + 1` goes to entry `k` (R501). -/
theorem effect_ret_pc {s : State} {k : Fin 16} (h : s.sp.val = k.val + 1) : (Instr.ret.effect s).pc = s.stack[k] := by
  simp [Instr.effect, h]

theorem effect_ret_sp (s : State) : (Instr.ret.effect s).sp.val = s.sp.val - 1 := rfl

/-- A return that completes leaves `status`, which only its fault writes (R501). -/
theorem effect_ret_frame (s : State) : Frame [.stack, .pc] s (Instr.ret.effect s) := by
  simp [Instr.effect]

/-- Settles O30: the check of `RET` compares `sp` with 0, and its effect is a pop that keeps the entries. -/
theorem returnPopsReturnAddress : Obligations.ReturnPopsReturnAddress := by
  refine fun s => ⟨rfl, fun k hk => ?_, fun hempty => faultsWith_of_check_some (if_pos hempty)⟩
  exact ⟨_, exec_ret_of_pos (by omega), by rw [effect_ret_sp, hk, Nat.add_sub_cancel], effect_ret_pc hk, rfl,
    effect_ret_frame s⟩

/-- Settles O31: the return pops the entry at the caller's `sp`, where the call pushed `pc + 2`. -/
theorem returnComesBackAfterCall : Obligations.ReturnComesBackAfterCall := by
  intro nnn s t u hroom hcall hstack hsp
  obtain ⟨-, hpush, -⟩ := callPushesReturnAddress nnn s
  obtain ⟨t', ht', htsp, htstack, -, -⟩ := hpush hroom
  obtain rfl := Host.Outcome.next.inj (hcall.symm.trans ht')
  obtain ⟨-, hpop, -⟩ := returnPopsReturnAddress u
  obtain ⟨w, hret, hwsp, hwpc, -, hframe⟩ := hpop ⟨s.sp.val, hroom⟩ (by rw [hsp, htsp])
  exact ⟨w, hret, by rw [hwpc, hstack, htstack, if_pos rfl], Fin.ext hwsp, hframe⟩

/-! ### Skips -/

theorem State.skipIf_beq (s : State) (a b : Byte) :
    (a = b → (s.skipIf (a == b)).pc = s.pc + 4) ∧ (a ≠ b → (s.skipIf (a == b)).pc = s.pc + 2) ∧
      Frame [.pc] s (s.skipIf (a == b)) :=
  ⟨fun h => by simp [h], fun h => by simp [h], by simp⟩

theorem State.skipIf_bne (s : State) (a b : Byte) :
    (a ≠ b → (s.skipIf (a != b)).pc = s.pc + 4) ∧ (a = b → (s.skipIf (a != b)).pc = s.pc + 2) ∧
      Frame [.pc] s (s.skipIf (a != b)) :=
  ⟨fun h => by simp [h], fun h => by simp [h], by simp⟩

/-- Settles O32: both skips check nothing and compare `V[X]` with `NN`. -/
theorem skipsCompareWithImmediate : Obligations.SkipsCompareWithImmediate := fun _ _ s =>
  ⟨formXNN_mask_family _ _ _, formXNN_mask_family _ _ _, ⟨_, rfl, s.skipIf_beq _ _⟩, _, rfl, s.skipIf_bne _ _⟩

/-- A word of family 0x5 or 0x9 whose low nibble is not 0 is unknown (R308). -/
theorem decodeWord_formXYN_unknown {t n : BitVec 4} (ht : t = 0x5#4 ∨ t = 0x9#4) (hn : n ≠ 0x0#4) (x y : RegIdx) :
    decodeWord (formXYN t x y n) = .error (.unknownOpcode (formXYN t x y n)) := by
  rcases ht with rfl | rfl <;> simp [decodeWord, decodeIfN0, hn]

/-- Settles O33: both skips check nothing and compare two registers, and the decoder demands a low nibble of 0. -/
theorem skipsCompareRegisters : Obligations.SkipsCompareRegisters := fun x y s =>
  ⟨formXYN_mask_nibble _ _ _ _, formXYN_mask_nibble _ _ _ _,
    fun _ hn => ⟨decodeWord_formXYN_unknown (.inl rfl) hn x y, decodeWord_formXYN_unknown (.inr rfl) hn x y⟩,
    ⟨_, rfl, s.skipIf_beq _ _⟩, _, rfl, s.skipIf_bne _ _⟩

end Sys2Proof.Machine
end

section
/-!
PROOFS. The statements of spec/42_register_alu.md. The layer they share comes first: what the two ends of an ALU instruction leave
in its destination and in `VF`, and the results and flags as numbers.
-/
namespace Sys2Proof.Machine

/-! ### What an ALU instruction leaves -/

@[simp] theorem State.readV_finish_same (s : State) (x : RegIdx) (b : Byte) : (s.finish x b).readV x = b := by
  rw [State.readV_finish, if_pos rfl]

@[simp] theorem State.readV_finishWithFlag_VF (s : State) (x : RegIdx) (b : Byte) (g : Bool) :
    (s.finishWithFlag x b g).readV VF = flagByte g := by
  rw [State.readV_finishWithFlag, if_pos rfl]

/-- A result outside `VF` stands beside the flag (R600). -/
theorem State.readV_finishWithFlag_result {x : RegIdx} (hx : x ≠ VF) (s : State) (b : Byte) (g : Bool) :
    (s.finishWithFlag x b g).readV x = b := by
  rw [State.readV_finishWithFlag, if_neg hx, if_pos rfl]

/-- A completed instruction that moves `pc` to the next one writes its destinations and parts, and nothing else. -/
theorem effect_sequential {i : Instr} (h : i.pcMove = .sequential) (s : State) :
    (i.effect s).pc = s.pc + 2 ∧ RegsExcept i.destRegs s (i.effect s) ∧ Frame i.writes s (i.effect s) :=
  ⟨effect_pc_sequential s h, effect_regs i s, effect_frame i s⟩

/-! ### Results as numbers (R620) -/

theorem toNat_addBytes (a b : Byte) : (addBytes a b).toNat = (a.toNat + b.toNat) % 256 :=
  BitVec.toNat_ofNat ..

/-- The 256 that `subBytes` adds keeps the natural difference exact, and vanishes modulo 256. -/
theorem toNat_subBytes (m b : Byte) : ((subBytes m b).toNat : Int) = (m.toNat - b.toNat : Int) % 256 := by
  have hb := b.isLt
  rw [subBytes, BitVec.toNat_ofNat]
  omega

theorem toNat_shiftRight_one (a : Byte) : (a >>> 1).toNat = a.toNat / 2 := by
  rw [BitVec.toNat_ushiftRight, Nat.shiftRight_eq_div_pow, pow_one]

theorem toNat_shiftLeft_one (a : Byte) : (a <<< 1).toNat = a.toNat * 2 % 256 := by
  rw [BitVec.toNat_shiftLeft, Nat.shiftLeft_eq, pow_one]

/-! ### Flags as numbers (R118) -/

theorem toNat_flagByte (f : Bool) : (flagByte f).toNat = f.toNat := by
  cases f <;> rfl

theorem toNat_flagByte_carryFlag (a b : Byte) :
    (flagByte (carryFlag a b)).toNat = if a.toNat + b.toNat > 255 then 1 else 0 := by
  rw [toNat_flagByte, carryFlag, Bool.toNat, Bool.cond_decide]

theorem toNat_flagByte_noBorrowFlag (m b : Byte) :
    (flagByte (noBorrowFlag m b)).toNat = if b.toNat > m.toNat then 0 else 1 := by
  rw [toNat_flagByte, noBorrowFlag, Bool.toNat, Bool.cond_decide]
  simp only [← Nat.not_lt, ite_not]

/-- Bit `k` of a byte as a flag is its `k`-th binary digit. -/
theorem toNat_flagByte_getLsbD (a : Byte) (k : Nat) : (flagByte (a.getLsbD k)).toNat = a.toNat / 2 ^ k % 2 := by
  rw [toNat_flagByte, BitVec.getLsbD, Nat.toNat_testBit]

theorem toNat_flagByte_shiftRightFlag (a : Byte) : (flagByte (shiftRightFlag a)).toNat = a.toNat % 2 := by
  rw [shiftRightFlag, toNat_flagByte_getLsbD, pow_zero, Nat.div_one]

theorem toNat_flagByte_shiftLeftFlag (a : Byte) : (flagByte (shiftLeftFlag a)).toNat = a.toNat / 128 := by
  have ha := a.isLt
  rw [shiftLeftFlag, toNat_flagByte_getLsbD]
  omega

/-! ### Arithmetic and shifts, which write a flag -/

/-- Settles O36: the sum goes to `V[X]` and then the carry to `VF`. -/
theorem addSetsCarryInVF : Obligations.AddSetsCarryInVF := by
  intro x y s
  refine ⟨formXYN_mask_nibble _ _ _ _, _, rfl, fun hx => ?_, ?_, effect_sequential (i := .addReg x y) rfl s⟩
  · rw [State.readV_finishWithFlag_result hx, toNat_addBytes]
  · rw [State.readV_finishWithFlag_VF, toNat_flagByte_carryFlag]

/-- Subtracting `b` from `m` with the result in `V[X]` leaves the difference modulo 256 and the NOT borrow (R615, R617). -/
theorem State.finishWithFlag_subBytes (s : State) (x : RegIdx) (m b : Byte) :
    (x ≠ VF → (((s.finishWithFlag x (subBytes m b) (noBorrowFlag m b)).readV x).toNat : Int) =
      (m.toNat - b.toNat : Int) % 256) ∧
    ((s.finishWithFlag x (subBytes m b) (noBorrowFlag m b)).readV VF).toNat = if b.toNat > m.toNat then 0 else 1 := by
  refine ⟨fun hx => ?_, ?_⟩
  · rw [State.readV_finishWithFlag_result hx, toNat_subBytes]
  · rw [State.readV_finishWithFlag_VF, toNat_flagByte_noBorrowFlag]

/-- Settles O37: one subtraction with its operands in either order. -/
theorem subtractSetsNotBorrowInVF : Obligations.SubtractSetsNotBorrowInVF := by
  intro x y s
  obtain ⟨hsub, hsubFlag⟩ := s.finishWithFlag_subBytes x (s.readV x) (s.readV y)
  obtain ⟨hsubn, hsubnFlag⟩ := s.finishWithFlag_subBytes x (s.readV y) (s.readV x)
  exact ⟨formXYN_mask_nibble _ _ _ _, formXYN_mask_nibble _ _ _ _,
    ⟨_, rfl, hsub, hsubFlag, effect_sequential (i := .subReg x y) rfl s⟩,
    _, rfl, hsubn, hsubnFlag, effect_sequential (i := .subn x y) rfl s⟩

/-- Settles O38: both shifts read `V[X]` alone, and the flag is its bit 0 or bit 7. -/
theorem shiftsPutLostBitInVF : Obligations.ShiftsPutLostBitInVF := by
  intro x y s
  refine ⟨formXYN_mask_nibble _ _ _ _, formXYN_mask_nibble _ _ _ _,
    ⟨_, rfl, fun hx => ?_, ?_, effect_sequential (i := .shr x y) rfl s⟩,
    _, rfl, fun hx => ?_, ?_, effect_sequential (i := .shl x y) rfl s⟩
  · rw [State.readV_finishWithFlag_result hx, toNat_shiftRight_one]
  · rw [State.readV_finishWithFlag_VF, toNat_flagByte_shiftRightFlag]
  · rw [State.readV_finishWithFlag_result hx, toNat_shiftLeft_one]
  · rw [State.readV_finishWithFlag_VF, toNat_flagByte_shiftLeftFlag]

/-! ### Moves, logic and random bytes, which write no flag -/

/-- Settles O34: each writes its result to `V[X]` and ends. -/
theorem movesAndAddImmediateWriteResult : Obligations.MovesAndAddImmediateWriteResult := by
  intro x y nn s
  refine ⟨formXNN_mask_family _ _ _, formXNN_mask_family _ _ _, formXYN_mask_nibble _ _ _ _,
    ⟨_, rfl, s.readV_finish_same x nn, effect_sequential (i := .ldImm x nn) rfl s⟩,
    ⟨_, rfl, ?_, effect_sequential (i := .addImm x nn) rfl s⟩,
    _, rfl, s.readV_finish_same x _, effect_sequential (i := .ldReg x y) rfl s⟩
  rw [State.readV_finish_same, toNat_addBytes]

/-- Settles O35: each writes the two bytes combined bit by bit to `V[X]` and ends. -/
theorem logicCombinesBitsWithoutFlag : Obligations.LogicCombinesBitsWithoutFlag := by
  intro x y s
  refine ⟨formXYN_mask_nibble _ _ _ _, formXYN_mask_nibble _ _ _ _, formXYN_mask_nibble _ _ _ _,
    ⟨_, rfl, fun k => ?_, effect_sequential (i := .orReg x y) rfl s⟩,
    ⟨_, rfl, fun k => ?_, effect_sequential (i := .andReg x y) rfl s⟩,
    _, rfl, fun k => ?_, effect_sequential (i := .xorReg x y) rfl s⟩
  · rw [State.readV_finish_same, BitVec.getLsbD_or]
  · rw [State.readV_finish_same, BitVec.getLsbD_and]
  · rw [State.readV_finish_same, BitVec.getLsbD_xor]

/-- Settles O39: the draw is counted, and its masked byte goes to `V[X]`. -/
theorem randomByteIsMasked : Obligations.RandomByteIsMasked := by
  intro x nn s
  obtain ⟨hpc, hregs, hframe⟩ := effect_sequential (i := .rnd x nn) rfl s
  refine ⟨formXNN_mask_family _ _ _, _, rfl, fun k => ?_, hpc, rfl, hregs, hframe⟩
  rw [State.readV_finish_same, BitVec.getLsbD_and]

end Sys2Proof.Machine
end

section
/-!
PROOFS. The statements of spec/43_index_memory.md. The layer they share comes first: what a completed instruction leaves when it
moves `pc` to the next one, the values of `I`, and what a bulk transfer leaves in memory and in the registers.
-/
namespace Sys2Proof.Machine

/-! ### Completion -/

/-- A completed instruction that moves `pc` to the next one leaves `status`, which only its fault writes. -/
theorem effect_status_sequential {i : Instr} (h : i.pcMove = .sequential) (s : State) : (i.effect s).status = s.status := by
  cases i <;> simp [Instr.pcMove, Instr.effect] at h ⊢

theorem effect_frame_sequential {i : Instr} (h : i.pcMove = .sequential) (s : State) :
    Frame (i.writes.erase .status) s (i.effect s) := by
  intro p hp
  by_cases hps : p = .status
  · rw [hps]
    exact effect_status_sequential h s
  · exact effect_frame i s p fun hw => hp ((List.mem_erase_of_ne hps).mpr hw)

/-! ### The address register -/

theorem toNat_indexSum (i : Word) (b : Byte) : (indexSum i b).toNat = (i.toNat + b.toNat) % 65536 := by
  rw [indexSum, BitVec.toNat_add, toNat_zextByte]

/-- The glyph of the last digit starts at `FONT_BASE + 75`, so 16 bits hold every glyph's address (R702). -/
theorem toNat_glyphAddr {d : Byte} (hd : d.toNat ≤ 0xF) : (glyphAddr d).toNat = Params.fontBase + 5 * d.toNat := by
  rw [glyphAddr, BitVec.toNat_ofNat, Params.fontBase, Nat.mod_eq_of_lt (by omega)]

/-- Settles O40: both check nothing, and `FX1E` adds in 16 bits. -/
theorem indexRegisterLoadsAndAdds : Obligations.IndexRegisterLoadsAndAdds := fun nnn x s =>
  ⟨formNNN_mask_family _ _, formXNN_mask_low _ _ _,
    ⟨_, rfl, toNat_zextAddr nnn, rfl, effect_frame (.ldI nnn) s⟩,
    _, rfl, toNat_indexSum s.i _, rfl, effect_frame (.addI x) s⟩

/-- Settles O41: the check of `FX29` compares `V[X]` with 0xF, and its effect sets `I` to the glyph's address. -/
theorem fontAddressOfDigit : Obligations.FontAddressOfDigit := by
  refine fun x s => ⟨formXNN_mask_low _ _ _, fun hdigit => ?_, fun hbad => faultsWith_of_check_some (if_pos hbad)⟩
  exact ⟨_, exec_of_check_none (if_neg (Nat.not_lt.mpr hdigit)), toNat_glyphAddr hdigit, rfl,
    effect_frame_sequential (i := .ldFont x) rfl s⟩

/-! ### Stores -/

/-- A byte of the range that was just stored reads as stored. -/
theorem State.readByte_of_writeBytes {s t : State} {a : Nat} {bs : List Byte} (hm : s.mem.wf = true)
    (ht : t.mem = s.mem.writeBytes a bs) (hend : a + bs.length ≤ 4096) {k : Nat} (hk : k < bs.length) :
    t.readByte (a + k) = bs[k] := by
  rw [State.readByte, ht, Memory.read_writeBytes_at bs hm hend hk]

/-- What a storing instruction does around its bytes: inside 0x200..0xFFF it completes, and outside it takes the fault of R221,
which tests the end of memory first. A range of at most 16 bytes that starts in the protected region ends inside memory. -/
theorem exec_store {i : Instr} {s : State} {n : Nat} (hn : n ≤ 0xF) (hcheck : i.check s = checkWrite s.i (n + 1))
    (hlen : i.storeLen = n + 1) (hpc : i.pcMove = .sequential) :
    (0x200 ≤ s.i.toNat → s.i.toNat + n ≤ 0xFFF → exec i s = .next (i.effect s) ∧ (i.effect s).pc = s.pc + 2 ∧
      MemExcept s.i.toNat (n + 1) s (i.effect s) ∧ Frame (i.writes.erase .status) s (i.effect s)) ∧
    (0xFFF < s.i.toNat + n → FaultsWith i s (.boundsFault (.writeOutOfRange s.i (n + 1)))) ∧
    (s.i.toNat ≤ 0x1FF → FaultsWith i s (.boundsFault (.writeProtected s.i (n + 1)))) := by
  refine ⟨fun hlo hhi => ?_, fun hout => ?_, fun hprot => ?_⟩
  · have hdone := exec_of_check_none (hcheck.trans ((checkWrite_eq_none_iff s.i (by omega)).mpr ⟨hlo, by omega⟩))
    exact ⟨hdone, effect_pc_sequential s hpc, hlen ▸ exec_memExcept hdone, effect_frame_sequential hpc s⟩
  · exact faultsWith_of_check_some (hcheck.trans (checkWrite_outOfRange (by omega)))
  · exact faultsWith_of_check_some (hcheck.trans (checkWrite_protected (by omega) hprot))

@[simp] theorem length_bcdDigits (b : Byte) : (bcdDigits b).length = 3 := rfl

/-- Each decimal digit fits in its byte (R703). -/
theorem map_toNat_bcdDigits (b : Byte) :
    (bcdDigits b).map BitVec.toNat = [b.toNat / 100, b.toNat / 10 % 10, b.toNat % 10] := by
  have hb := b.isLt
  have hhundreds : b.toNat / 100 < 256 := by omega
  have htens : b.toNat / 10 % 10 < 256 := by omega
  have hones : b.toNat % 10 < 256 := by omega
  simp [bcdDigits, Nat.mod_eq_of_lt, hhundreds, htens, hones]

/-- The bytes from `I` on after `FX33` are the decimal digits of `V[X]` (R703). -/
theorem effect_ldBcd_readByte (x : RegIdx) {s : State} (hm : s.mem.wf = true) (hend : s.i.toNat + 2 ≤ 0xFFF) {k : Nat}
    (hk : k < 3) : (((Instr.ldBcd x).effect s).readByte (s.i.toNat + k)).toNat =
      [(s.readV x).toNat / 100, (s.readV x).toNat / 10 % 10, (s.readV x).toNat % 10][k] := by
  have hlen := length_bcdDigits (s.readV x)
  rw [State.readByte_of_writeBytes hm rfl (by omega) (hlen ▸ hk)]
  simp only [← map_toNat_bcdDigits, List.getElem_map]

/-- Settles O42: a store of three bytes, which are the digits. -/
theorem bcdStoresThreeDigits : Obligations.BcdStoresThreeDigits := by
  intro x s
  obtain ⟨hstore, hfaults⟩ := exec_store (i := .ldBcd x) (s := s) (n := 2) (by omega) rfl rfl rfl
  refine ⟨formXNN_mask_low _ _ _, fun hlo hhi => ?_, hfaults⟩
  obtain ⟨hexec, hpc, hmem, hframe⟩ := hstore hlo hhi
  refine ⟨_, hexec, fun hm => ?_, hpc, hmem, hframe⟩
  have hdigit (k : Nat) (hk : k < 3) := effect_ldBcd_readByte x hm hhi hk
  exact ⟨hdigit 0 (by omega), hdigit 1 (by omega), hdigit 2 (by omega)⟩

/-- Settles O43: a store of `X + 1` bytes, which are the registers. -/
theorem storeWritesRegistersToMemory : Obligations.StoreWritesRegistersToMemory := by
  intro x s
  obtain ⟨hstore, hfaults⟩ := exec_store (i := .storeRegs x) (s := s) (n := x.val) (by omega) rfl rfl rfl
  refine ⟨formXNN_mask_low _ _ _, fun hlo hhi => ?_, hfaults⟩
  obtain ⟨hexec, hpc, hmem, hframe⟩ := hstore hlo hhi
  refine ⟨_, hexec, fun hm r hr => ?_, hpc, hmem, hframe⟩
  have hlen := s.length_regsUpTo x
  rw [State.readByte_of_writeBytes hm rfl (by omega) (hlen ▸ Nat.lt_succ_of_le hr), State.getElem_regsUpTo]

/-! ### Loads -/

/-- The registers after a load: those up to `X` from memory, the others as they were (R705). -/
theorem effect_loadRegs_readV (x : RegIdx) (s : State) (r : RegIdx) :
    ((Instr.loadRegs x).effect s).readV r = if r ≤ x then s.readByte (s.i.toNat + r.val) else s.readV r := by
  simp only [Fin.le_def, ← Nat.lt_succ_iff]
  exact loadInto_get s.mem s.i.toNat s.v (x.val + 1) r

/-- Settles O44: the check of `FX65` is that of a read of `X + 1` bytes, in any region. -/
theorem loadReadsRegistersFromMemory : Obligations.LoadReadsRegistersFromMemory := by
  intro x s
  refine ⟨formXNN_mask_low _ _ _, fun hin => ?_, fun hout => faultsWith_of_check_some (checkRead_eq_some (by omega))⟩
  exact ⟨_, exec_of_check_none ((checkRead_eq_none_iff s.i (x.val + 1)).mpr (.inr (by omega))), effect_loadRegs_readV x s, rfl,
    effect_frame_sequential (i := .loadRegs x) rfl s⟩

end Sys2Proof.Machine
end

section
/-!
PROOFS. The statements of spec/44_keys_timers.md. The layer they share comes first: the key level a skip reads, the press edges a
poll looks for and its two answers, and a tick as `status` decides.
-/
namespace Sys2Proof.Machine

/-! ### Key skips -/

/-- The level of the key that a register names. -/
theorem State.keyPressed_of_toNat_eq (s : State) {b : Byte} {k : KeyIdx} (h : b.toNat = k.val) :
    s.keyPressed b = s.keys[k] := by
  simp [State.keyPressed, h]

/-- A register that holds a key's number passes the check of the key skips (R800, R801). -/
theorem checkKeyIndex_of_toNat_eq {b : Byte} {k : KeyIdx} (h : b.toNat = k.val) : checkKeyIndex b = none :=
  if_neg (by omega)

/-- Settles O45: the check of both skips compares `V[X]` with 0xF, and their effects read the level of one key. -/
theorem keySkipsReadKeyState : Obligations.KeySkipsReadKeyState := by
  refine fun x s => ⟨formXNN_mask_low _ _ _, formXNN_mask_low _ _ _, fun k hk => ?_,
    fun hbad => ⟨faultsWith_of_check_some (if_pos hbad), faultsWith_of_check_some (if_pos hbad)⟩⟩
  have hlevel := s.keyPressed_of_toNat_eq hk
  have hcheck := checkKeyIndex_of_toNat_eq hk
  refine ⟨⟨_, exec_of_check_none (i := .skp x) hcheck, ?_, ?_⟩, _, exec_of_check_none (i := .sknp x) hcheck, ?_, ?_⟩
  all_goals simp [Instr.effect, hlevel]

/-! ### The key wait -/

/-- A press edge is a key pressed now that was not pressed in the snapshot (R804). -/
theorem State.pressEdge_eq_true_iff (s : State) (k : KeyIdx) :
    s.pressEdge k = true ↔ s.keys[k] = true ∧ s.kprev[k] = false := by
  simp [State.pressEdge]

theorem State.pressEdge_eq_false_iff (s : State) (k : KeyIdx) :
    s.pressEdge k = false ↔ ¬ (s.keys[k] = true ∧ s.kprev[k] = false) := by
  rw [← s.pressEdge_eq_true_iff, Bool.not_eq_true]

/-- A poll that finds no press edge takes a new snapshot and waits on (R804). -/
theorem State.poll_of_no_pressEdge {s : State} (h : ∀ k : KeyIdx, s.pressEdge k = false) (x : RegIdx) :
    s.poll x = s.setKprev s.keys := by
  rw [State.poll, State.lowestEdge_eq_none h]

/-- A poll that finds press edges takes a new snapshot, and the machine runs on after the instruction that began the wait, which
ends with the lowest such key in `V[x]` (R804). -/
theorem State.poll_of_lowest_pressEdge {s : State} {k : KeyIdx} (h : s.pressEdge k = true)
    (hl : ∀ j : KeyIdx, j < k → s.pressEdge j = false) (x : RegIdx) :
    s.poll x = ((s.setKprev s.keys).setStatus .running).finish x (BitVec.ofNat 8 k.val) := by
  rw [State.poll, State.lowestEdge_eq_some h hl]
  rfl

/-- The step of a waiting machine polls (R313, R804). -/
theorem step_awaitingKey {s : State} {x : RegIdx} (h : s.status = .awaitingKey x) : step s = .next (s.poll x) := by
  rw [step, h]

/-- Settles O48: against the snapshot the entry takes, a key has an edge only after `K` changes. -/
theorem keyWaitSnapshotsKeys : Obligations.KeyWaitSnapshotsKeys := by
  refine fun x s => ⟨formXNN_mask_low _ _ _, _, rfl, rfl, rfl, effect_frame (.ldKey x) s, ?_⟩
  rw [step_awaitingKey (x := x) rfl, State.poll_of_no_pressEdge fun k => by simp [State.pressEdge]]
  rfl

/-! ### Ticks -/

/-- On a machine that is not faulted a tick decays both timers and reports whether `ST` was 1 (R920, R922). -/
theorem State.tick_of_not_faulted {s : State} (h : ¬ Faulted s) :
    s.tick = ((s.setDT (decay s.dt)).setST (decay s.st), s.st == 1) := by
  rcases s.tick_cases with ⟨hfaulted, -⟩ | ⟨-, htick⟩
  · exact absurd hfaulted h
  · exact htick

theorem not_faulted_of_awaitingKey {s : State} {x : RegIdx} (h : s.status = .awaitingKey x) : ¬ Faulted s :=
  fun ⟨_, hr⟩ => Status.noConfusion (h.symm.trans hr)

/-- Settles O13: the poll looks for the lowest press edge, and a tick keeps `status`. -/
theorem pollTakesLowestPressEdge : Obligations.PollTakesLowestPressEdge := by
  intro s x hwait
  rw [step_awaitingKey hwait, State.tick_of_not_faulted (not_faulted_of_awaitingKey hwait)]
  refine ⟨fun hnone => ?_, fun k hnow hbefore hlowest => ?_, hwait, toNat_decay s.dt⟩
  · rw [State.poll_of_no_pressEdge fun k => (s.pressEdge_eq_false_iff k).mpr (hnone k)]
    rfl
  · rw [State.poll_of_lowest_pressEdge ((s.pressEdge_eq_true_iff k).mpr ⟨hnow, hbefore⟩)
      fun j hj => (s.pressEdge_eq_false_iff j).mpr (hlowest j hj)]
    refine ⟨_, rfl, ?_, rfl, rfl, rfl, regsExcept_finish _ rfl List.mem_cons_self, by simp⟩
    rw [State.readV_finish_same, BitVec.toNat_ofNat, Nat.mod_eq_of_lt (by omega)]

/-! ### Timer moves -/

/-- Settles O46: `FX07` writes `DT` to `V[X]` and ends, and `FX15` writes the timer alone. -/
theorem delayTimerMoves : Obligations.DelayTimerMoves := fun x s =>
  ⟨formXNN_mask_low _ _ _, formXNN_mask_low _ _ _,
    ⟨_, rfl, s.readV_finish_same x s.dt, effect_sequential (i := .ldFromDT x) rfl s⟩,
    _, rfl, rfl, rfl, effect_frame (.ldToDT x) s⟩

/-- Settles O47: `FX18` writes the timer alone, and leaves `status`, so the tick after it reads the written value. -/
theorem soundTimerIsSet : Obligations.SoundTimerIsSet := by
  refine fun x s => ⟨formXNN_mask_low _ _ _, _, rfl, rfl, rfl, effect_frame (.ldToST x) s, fun hs => ?_⟩
  rw [State.tick_of_not_faulted (s := (s.setST (s.readV x)).advance) hs]
  exact beq_iff_eq

end Sys2Proof.Machine
end

section
/-!
PROOFS. The statements of spec/60_exceptions.md. The layer they share comes first: which words the decoder rejects, the step of a
running machine at such a word, and the closed form of a run of ticks.
-/
namespace Sys2Proof.Machine

/-! ### Which words the decoder rejects (R310)

A field that the decoder compares with a constant is a digit of the word's number, which the table of R310 speaks of. -/

section
variable {w : Word}

theorem fieldN_eq_iff {n : BitVec 4} : fieldN w = n ↔ w.toNat % 0x10 = n.toNat := by
  rw [← BitVec.toNat_inj, toNat_fieldN]

theorem fieldNN_eq_iff {b : Byte} : fieldNN w = b ↔ w.toNat % 0x100 = b.toNat := by
  rw [← BitVec.toNat_inj, toNat_fieldNN]

theorem exists_decodeFamily0_eq_ok_iff : (∃ i, decodeFamily0 w = .ok i) ↔ w.toNat = 0x00E0 ∨ w.toNat = 0x00EE := by
  unfold decodeFamily0
  split_ifs
  all_goals simp_all [← BitVec.toNat_inj]

theorem exists_decodeIfN0_eq_ok_iff {j : Instr} : (∃ i, decodeIfN0 w j = .ok i) ↔ w.toNat % 0x10 = 0 := by
  unfold decodeIfN0
  split_ifs
  all_goals simp_all [fieldN_eq_iff]

theorem exists_decodeFamily8_eq_ok_iff :
    (∃ i, decodeFamily8 w = .ok i) ↔ w.toNat % 0x10 ∉ [0x8, 0x9, 0xA, 0xB, 0xC, 0xD, 0xF] := by
  simp only [decodeFamily8, toNat_fieldN]
  split
  case h_10 =>
    have hlt : w.toNat % 0x10 < 0x10 := Nat.mod_lt _ (by decide)
    grind
  all_goals simp_all

theorem exists_decodeFamilyE_eq_ok_iff : (∃ i, decodeFamilyE w = .ok i) ↔ w.toNat % 0x100 ∈ [0x9E, 0xA1] := by
  unfold decodeFamilyE
  split_ifs
  all_goals simp_all [fieldNN_eq_iff]

theorem exists_decodeFamilyF_eq_ok_iff :
    (∃ i, decodeFamilyF w = .ok i) ↔ w.toNat % 0x100 ∈ [0x07, 0x0A, 0x15, 0x18, 0x1E, 0x29, 0x33, 0x55, 0x65] := by
  unfold decodeFamilyF
  split_ifs
  all_goals simp_all [fieldNN_eq_iff]

/-- The decoder accepts a word exactly when R310's table does not list it. Arm `k` of the decoder is family `k - 1`. -/
theorem exists_decodeWord_eq_ok_iff : (∃ i, decodeWord w = .ok i) ↔ ¬ UnknownWord w := by
  simp only [decodeWord, UnknownWord, toNat_fieldT]
  split
  case h_2 ht | h_3 ht | h_4 ht | h_5 ht | h_7 ht | h_8 ht | h_11 ht | h_12 ht | h_13 ht | h_14 ht => simp [ht]
  case h_1 ht => simp [ht, exists_decodeFamily0_eq_ok_iff, or_iff_not_imp_left]
  case h_6 ht | h_10 ht => simp [ht, exists_decodeIfN0_eq_ok_iff]
  case h_9 ht => simp [ht, exists_decodeFamily8_eq_ok_iff]
  case h_15 ht => simp [ht, exists_decodeFamilyE_eq_ok_iff, or_iff_not_imp_left]
  case h_16 =>
    have hlt := w.isLt
    have ht : w.toNat / 0x1000 = 0xF := by grind
    simp [ht, exists_decodeFamilyF_eq_ok_iff, or_iff_not_imp_left]

/-- The words the decoder rejects are those R310's table lists. -/
theorem decodeWord_eq_error_iff : decodeWord w = .error (.unknownOpcode w) ↔ UnknownWord w := by
  rw [← not_iff_not, ← exists_decodeWord_eq_ok_iff]
  cases hd : decodeWord w with
  | ok i => simp
  | error r => simp [decodeWord_error hd]

end

/-! ### The step -/

/-- A running machine at an unknown word takes `UnknownOpcode` (R903). -/
theorem step_of_unknownWord {s : State} (hs : s.status = .running) (hp : s.pcInRange = true) (hw : UnknownWord s.fetchWord) :
    step s = .next (s.raiseFault .unknownOpcode (some s.fetchWord)) := by
  simp [step, hs, State.fetchInstr_inRange hp, decodeWord_eq_error_iff.mpr hw]

/-- Settles O11: the word at `pc` is `w`, and the decoder rejects exactly the words of R310's table. -/
theorem unknownWordsFaultAndOthersExecute : Obligations.UnknownWordsFaultAndOthersExecute := by
  intro s w hs hlo hhi hhigh hlow
  have hp := s.pcInRange_iff.mpr ⟨hlo, hhi⟩
  obtain rfl : s.fetchWord = w := by rw [State.fetchWord, hhigh, hlow, composeWord_bytes]
  refine ⟨step_of_unknownWord hs hp, fun hw => ?_⟩
  obtain ⟨i, hi⟩ := exists_decodeWord_eq_ok_iff.mpr hw
  exact ⟨i, hi, step_of_decodeWord hs hp hi⟩

/-- A faulted machine does not step (R908). -/
theorem step_of_faulted {s : State} (h : Faulted s) : step s = .next s := by
  obtain ⟨r, hr⟩ := h
  rw [step, hr]

/-- Settles O25: a faulted machine does not step, and a jump to itself writes the `pc` that is there. -/
theorem quiescentStateStaysUnchanged : Obligations.QuiescentStateStaysUnchanged := by
  rintro s (hfault | ⟨hs, hp, nnn, hd, hself⟩)
  · exact step_of_faulted hfault
  · calc step s
      _ = exec (.jp nnn) s := step_of_decodeWord hs hp hd
      _ = .next (s.setPc s.pc) := by rw [← hself]; rfl
      _ = .next s := rfl

/-! ### Which faults arise -/

/-- A fault that an instruction takes is one of its own, and its record holds the pc and the instruction's word (R900, R901). -/
theorem exec_fault_record {i : Instr} {s t : State} {r : FaultRecord} (hs : ¬ Faulted s) (h : exec i s = .next t)
    (hr : t.status = .faulted r) :
    t = { s with status := .faulted r } ∧ r.pc = s.pc ∧ r.opcode = some (encode i) ∧ i.mayRaise r.cause = true := by
  obtain ⟨c, rfl, hmay⟩ := exec_faulted hs h ⟨r, hr⟩
  obtain rfl := Status.faulted.inj hr
  exact ⟨rfl, rfl, rfl, hmay⟩

/-- Settles O16: the record of an instruction's fault names one of its own causes. -/
theorem instructionsRaiseOnlyTheirFaults : Obligations.InstructionsRaiseOnlyTheirFaults := by
  intro i s t r hs h hr
  obtain ⟨-, -, -, hmay⟩ := exec_fault_record hs h hr
  exact hmay

/-- A poll never takes a fault (R804). -/
theorem State.not_faulted_poll {s : State} (hs : ¬ Faulted s) (x : RegIdx) : ¬ Faulted (s.poll x) := by
  rintro ⟨r, hr⟩
  rcases s.poll_cases x with h | ⟨k, h⟩ <;> rw [h] at hr
  · exact hs ⟨r, hr⟩
  · exact Status.noConfusion hr

/-- Settles O15: of the step's cases, a halted machine is excluded and a poll takes no fault; the fetch, the decoder and the
instruction each take the fault of their own. -/
theorem everyFaultIsPrecise : Obligations.EveryFaultIsPrecise := by
  intro s t r hs h hr
  have hrange := s.pcInRange_iff
  rcases step_cases h with ⟨r', hr', -⟩ | ⟨x, -, rfl⟩ | ⟨hrun, hp, rfl⟩ | ⟨hrun, hp, hd, rfl⟩ | ⟨i, hrun, hp, hd, hexec⟩
  · exact absurd ⟨r', hr'⟩ hs
  · exact absurd ⟨r, hr⟩ (State.not_faulted_poll hs x)
  · obtain rfl := Status.faulted.inj hr
    rw [if_neg (mt hrange.mpr (Bool.eq_false_iff.mp hp))]
    exact ⟨hrun, rfl, rfl, rfl, rfl⟩
  · obtain rfl := Status.faulted.inj hr
    rw [if_pos (hrange.mp hp)]
    exact ⟨hrun, rfl, rfl, s.fetchWord, rfl, rfl, .inl ⟨decodeWord_eq_error_iff.mp hd, rfl⟩⟩
  · obtain ⟨ht, hpc, hopcode, hmay⟩ := exec_fault_record hs hexec hr
    rw [if_pos (hrange.mp hp)]
    exact ⟨hrun, ht, hpc, s.fetchWord, rfl, by rw [hopcode, (decodeWord_ok hd).word], .inr ⟨i, hd, hmay⟩⟩

/-! ### Ticks -/

/-- A faulted machine does not tick (R923). -/
theorem State.tick_of_faulted {s : State} (h : Faulted s) : s.tick = (s, false) := by
  obtain ⟨r, hr⟩ := h
  rw [State.tick, hr]

/-- Settles O54: a tick as `status` decides, and a timer that decays by one. -/
theorem tickDecaysBothTimers : Obligations.TickDecaysBothTimers := by
  intro s
  refine ⟨s.tick.1, s.tick.2, rfl, fun h => ?_, fun h => ?_⟩
  · rw [State.tick_of_faulted h]
    exact ⟨rfl, rfl⟩
  · rw [State.tick_of_not_faulted h]
    refine ⟨toNat_decay s.dt, toNat_decay s.st, ?_, by simp⟩
    rw [beq_iff_eq, ← BitVec.toNat_inj]
    rfl

theorem State.ticks_of_faulted {s : State} (h : Faulted s) (m : Nat) : s.ticks m = s := by
  induction m with
  | zero => rfl
  | succ m ih => rw [State.ticks, State.tick_of_faulted h, ih]

/-- On a machine that is not faulted, `m` ticks decay each timer `m` times (R920, R923). -/
theorem State.ticks_of_not_faulted {s : State} (h : ¬ Faulted s) (m : Nat) :
    s.ticks m = (s.setDT (decay^[m] s.dt)).setST (decay^[m] s.st) := by
  induction m generalizing s with
  | zero => rfl
  | succ m ih =>
    rw [State.ticks, State.tick_of_not_faulted h]
    exact ih h

/-- A timer `m` ticks later (R920). -/
theorem toNat_iterate_decay (m : Nat) (b : Byte) : (decay^[m] b).toNat = b.toNat - m := by
  induction m with
  | zero => rfl
  | succ m ih => rw [Function.iterate_succ_apply', toNat_decay, ih, Nat.sub_sub]

theorem iterate_decay_eq_zero_iff {m : Nat} {b : Byte} : decay^[m] b = 0 ↔ b.toNat ≤ m := by
  rw [← BitVec.toNat_inj, toNat_iterate_decay]
  exact Nat.sub_eq_zero_iff_le

theorem State.frame_ticks (s : State) (m : Nat) : Frame [.delayTimer, .soundTimer] s (s.ticks m) := by
  by_cases h : Faulted s
  · simp [State.ticks_of_faulted h]
  · simp [State.ticks_of_not_faulted h]

/-- Settles O55: `FX15` leaves `status`, so the ticks after it decay what it wrote exactly where the machine is not faulted. -/
theorem delayTimerReachesZeroAfterItsTicks : Obligations.DelayTimerReachesZeroAfterItsTicks := by
  intro x s t m h
  obtain rfl := Host.Outcome.next.inj h
  have hstatus : Faulted ((s.setDT (s.readV x)).advance) ↔ Faulted s := Iff.rfl
  rw [← hstatus]
  refine ⟨fun hs => ?_, State.frame_ticks _ m, fun hs => State.ticks_of_faulted hs m⟩
  rw [State.ticks_of_not_faulted hs]
  exact iterate_decay_eq_zero_iff

/-! ### The fault record -/

theorem State.tick_status (s : State) : s.tick.1.status = s.status := by
  rcases s.tick_cases with ⟨-, h⟩ | ⟨-, h⟩ <;> simp [h]

theorem State.loadRom_status (s : State) (bytes : List Byte) : (s.loadRom bytes).1.status = s.status := by
  by_cases hl : bytes.length ≤ 3232
  · rw [State.loadRom_ok hl, State.setMem_status]
  · rw [State.loadRom_tooLarge (by omega)]

/-- Settles O12: on a faulted machine the command `step` answers the same state, and the commands of the other agents, `reset`
aside, leave `status`. -/
theorem faultedStateIsLeftOnlyByReset : Obligations.FaultedStateIsLeftOnlyByReset := by
  intro s r hr
  have hstep := step_of_faulted ⟨r, hr⟩
  refine ⟨hstep, fun c hc => ?_, _, _, rfl, rfl⟩
  cases c with
  | reset => exact absurd rfl hc
  | step => exact ⟨s, .nothing, by rw [State.apply, hstep], hr⟩
  | tick => exact ⟨_, _, rfl, s.tick_status.trans hr⟩
  | loadRom bytes => exact ⟨_, _, rfl, (s.loadRom_status bytes).trans hr⟩
  | setKey => exact ⟨_, _, rfl, hr⟩
  | clearDirty => exact ⟨_, _, rfl, hr⟩

end Sys2Proof.Machine
end

section
/-!
PROOFS. The statements of spec/70_reset_and_hazards.md: the command `reset`, and what a ROM load leaves in memory. The layer of the
ROM load comes first: what each part of memory reads after it.
-/
namespace Sys2Proof.Machine

/-! ### Reset -/

/-- Settles O7: the command writes nothing of the construction state but the counter, which it keeps. -/
theorem resetCommandGivesConstructionState : Obligations.ResetCommandGivesConstructionState := by
  intro s
  have hframe : Frame [.randomDraws] State.reset (State.reset.setRndDraws s.rndDraws) :=
    (frame_setRndDraws _ (List.mem_singleton.mpr rfl)).mpr (Frame.refl _ _)
  exact ⟨_, rfl, hframe, rfl, rfl⟩

/-! ### Memory after a ROM load

The load zeroes the program region and then stores the ROM at its start (R1011). -/

theorem zeroes_fit : 0x200 + (List.replicate 3232 (0 : Byte)).length ≤ Params.memLast + 1 := by
  rw [List.length_replicate]
  decide

/-- The zeroed program region reads as 0. -/
theorem Memory.read_zeroed {m : Memory} (hm : m.wf = true) {a : Nat} (hlo : 0x200 ≤ a) (hhi : a ≤ 0xE9F) :
    (m.writeBytes 0x200 (List.replicate 3232 0)).read a = 0 := by
  obtain ⟨k, rfl⟩ := Nat.exists_eq_add_of_le hlo
  rw [Memory.read_writeBytes_at _ hm zeroes_fit (by rw [List.length_replicate]; omega), List.getElem_replicate]

section
variable {s : State} {bytes : List Byte} (hl : bytes.length ≤ 3232)
include hl

theorem State.readByte_loadRom_rom (hm : s.mem.wf = true) {k : Nat} (hk : k < bytes.length) :
    (s.loadRom bytes).1.readByte (0x200 + k) = bytes[k] := by
  have hzeroed := Memory.wf_writeBytes _ hm zeroes_fit
  rw [State.loadRom_ok hl]
  exact Memory.read_writeBytes_at bytes hzeroed (by rw [Params.memLast]; omega) hk

theorem State.readByte_loadRom_rest (hm : s.mem.wf = true) {a : Nat} (hlo : 0x200 + bytes.length ≤ a) (hhi : a ≤ 0xE9F) :
    (s.loadRom bytes).1.readByte a = 0 := by
  rw [State.loadRom_ok hl]
  exact (Memory.read_writeBytes_other bytes _ _ (by omega)).trans (Memory.read_zeroed hm (by omega) hhi)

theorem State.readByte_loadRom_outside {a : Nat} (ha : a < 0x200 ∨ 0xE9F < a) :
    (s.loadRom bytes).1.readByte a = s.readByte a := by
  obtain ⟨-, hread⟩ := Memory.romLoad s.mem hl
  rw [State.loadRom_ok hl]
  exact hread a ha

theorem State.frame_loadRom : Frame [.memory] s (s.loadRom bytes).1 := by
  rw [State.loadRom_ok hl]
  exact (frame_setMem _ (List.mem_singleton.mpr rfl)).mpr (Frame.refl _ s)

theorem State.loadRom_reply_ok : (s.loadRom bytes).2 = .ok := by
  rw [State.loadRom_ok hl]

end

/-- Settles O56: a ROM that fits is read back part by part, and a longer one is refused before any write. -/
theorem romLoadFillsProgramRegionOrIsRefused : Obligations.RomLoadFillsProgramRegionOrIsRefused := by
  refine fun s bytes => ⟨fun hl => ⟨(s.loadRom bytes).1, ?_, fun hm => ⟨?_, ?_⟩, ?_, State.frame_loadRom hl⟩, fun hl => ?_⟩
  · rw [State.apply, State.loadRom_reply_ok hl]
  · exact fun k hk => State.readByte_loadRom_rom hl hm hk
  · exact fun a hlo hhi => State.readByte_loadRom_rest hl hm hlo hhi
  · exact fun a ha => State.readByte_loadRom_outside hl ha
  · rw [State.apply, State.loadRom_tooLarge hl]

end Sys2Proof.Machine
end
